-- ==== Sys2Proof/Word.lean ====
section
/-! DEFINITION. The widths of multibox2 CORE (00_scope R6): bytes, 16-bit words, 32-bit
doublewords and the 3-bit register field of a ModRM byte. -/

namespace Sys2Proof

/-- One byte of the instruction stream or of memory; an 8-bit register half (R22). -/
abbrev Byte := BitVec 8

/-- A 16-bit value: a general register, a selector, a limit, an effective offset (R6). -/
abbrev Word := BitVec 16

/-- A 32-bit value: `ip`, `cr0`, a segment base, an offset, a physical address (R6). -/
abbrev Dword := BitVec 32

/-- A 3-bit register field (R93). -/
abbrev Field3 := BitVec 3

end Sys2Proof
end

