-- ==== Sys2Proof/Syntax.lean ====
section
/-! DEFINITION. The instruction set as data: registers, segments, operand forms, the instructions
(one constructor per row of spec/opcode_table.json) and the entries of the dispatch tables. -/

namespace Sys2Proof

/-- The eight general registers, in the order of their numbers 0 to 7 (R20). -/
inductive Reg16 where
  | ax | cx | dx | bx | sp | bp | si | di
  deriving DecidableEq, Repr

/-- The eight 8-bit registers, in the order of their numbers 0 to 7 (R22). -/
inductive Reg8 where
  | al | cl | dl | bl | ah | ch | dh | bh
  deriving DecidableEq, Repr

/-- The six segments (R24). -/
inductive Seg where
  | es | cs | ss | ds | fs | gs
  deriving DecidableEq, Repr

/-- The base and index combination that `rm` names in a memory form (R101), rm 0 to 7 in order. -/
inductive EaBase where
  | bxsi | bxdi | bpsi | bpdi | si | di | bp | bx
  deriving DecidableEq, Repr

/-- The register-or-memory operand of a ModRM byte, with its displacement (R93, R101). -/
inductive RM where
  /-- mod 3: the register numbered `rm`; 8 or 16 bits wide as the instruction says. -/
  | reg (rm : Field3)
  /-- mod 0, rm not 6: base and index, no displacement. -/
  | mem0 (base : EaBase)
  /-- mod 0, rm 6: no base, a 16-bit absolute displacement. -/
  | direct (disp : Word)
  /-- mod 1: base and index, an 8-bit signed displacement. -/
  | mem8 (base : EaBase) (disp : Byte)
  /-- mod 2: base and index, a 16-bit displacement. -/
  | mem16 (base : EaBase) (disp : Word)
  deriving DecidableEq, Repr

/-- What follows the operand of C6 and C7 (R156, R157): with ModRM `reg` 0 an immediate; with any
other `reg` no immediate is fetched, and the form has no meaning. -/
inductive ImmForm (w : Nat) where
  | value (imm : BitVec w)
  | noMeaning (reg : Field3)
  deriving DecidableEq, Repr

/-- The instructions: one constructor per row of spec/opcode_table.json (R95, R96). -/
inductive Instr where
  /-- 26, segment override ES: (R125). -/
  | segEs
  /-- 2E, segment override CS: (R125). -/
  | segCs
  /-- 36, segment override SS: (R125). -/
  | segSs
  /-- 3E, segment override DS: (R125). -/
  | segDs
  /-- 64, segment override FS: (R125). -/
  | segFs
  /-- 65, segment override GS: (R125). -/
  | segGs
  /-- 88 /r, MOV r/m8, r8 (R152). -/
  | movRm8R8 (rm : RM) (reg : Reg8)
  /-- 89 /r, MOV r/m16, r16 (R153). -/
  | movRm16R16 (rm : RM) (reg : Reg16)
  /-- 8A /r, MOV r8, r/m8 (R154). -/
  | movR8Rm8 (reg : Reg8) (rm : RM)
  /-- 8B /r, MOV r16, r/m16 (R155). -/
  | movR16Rm16 (reg : Reg16) (rm : RM)
  /-- 8C /r, MOV r/m16, Sreg; the raw `reg` field, since 6 and 7 name no segment (R160). -/
  | movRm16Sreg (rm : RM) (sreg : Field3)
  /-- 8E /r, MOV Sreg, r/m16; the raw `reg` field, since 1, 6 and 7 have no meaning (R161). -/
  | movSregRm16 (sreg : Field3) (rm : RM)
  /-- B0+r ib, MOV r8, imm8 (R150). -/
  | movR8Imm8 (reg : Reg8) (imm : Byte)
  /-- B8+r iw, MOV r16, imm16 (R151). -/
  | movR16Imm16 (reg : Reg16) (imm : Word)
  /-- C6 /0 ib, MOV r/m8, imm8 (R156). -/
  | movRm8Imm8 (rm : RM) (src : ImmForm 8)
  /-- C7 /0 iw, MOV r/m16, imm16 (R157). -/
  | movRm16Imm16 (rm : RM) (src : ImmForm 16)
  /-- E9 cw, JMP rel16 (R181). -/
  | jmpRel16 (rel : Word)
  /-- EA ow sw, JMP ptr16:16: offset, then selector (R182). -/
  | jmpPtr16 (off sel : Word)
  /-- EB cb, JMP rel8 (R180). -/
  | jmpRel8 (rel : Byte)
  /-- FB, STI (R185). -/
  | sti
  /-- A two-byte opcode whose second byte `b2` finds NOT_ROUTED (R121, R122). -/
  | escape (b2 : Byte)
  /-- An opcode byte that finds UNHANDLED (R120). -/
  | unhandled (b : Byte)
  deriving DecidableEq, Repr

/-- What the ModRM decoder writes into the decode context between its fetches (R130). -/
inductive CtxNote where
  /-- `ctx.reg`. -/
  | reg (n : Field3)
  /-- `ctx.modrm_kind` with the fields of that kind, for the operand form read. -/
  | operand (rm : RM)
  deriving DecidableEq, Repr

/-- The fetches of a handler, one `HFetch` at a time (R115): each next fetch may depend on the values
that earlier ones answered. A plan is read from a list of bytes (the decoder) or through the bus (the
engine), so the two cannot read different instructions. -/
inductive Plan (α : Type) where
  | done (value : α)
  | byte (next : Byte → Plan α)
  | word (next : Word → Plan α)
  | note (n : CtxNote) (next : Plan α)

/-- The 16-bit handlers a descriptor can name: those of the baseline list (R95), one per rule. -/
inductive Handler where
  | override (seg : Seg)
  | movRm8R8 | movRm16R16 | movR8Rm8 | movR16Rm16
  | movRm16Sreg | movSregRm16
  | movR8Imm8 | movR16Imm16 | movRm8Imm8 | movRm16Imm16
  | jmpRel16 | jmpPtr16 | jmpRel8
  | sti
  deriving DecidableEq, Repr

/-- One entry of the static opcode descriptor list (R7, R118): opcode byte, the escape flag, the
16-bit handler and the 32-bit slot that no rule reads (R124). -/
structure Descriptor where
  opcode : Byte
  escape : Bool
  handler16 : Handler
  handler32 : Option Handler
  deriving DecidableEq, Repr

/-- One entry of a dispatch table (R42). -/
inductive TableEntry where
  | handler (h : Handler)
  | unhandled
  | escapeRouter
  | notRouted
  deriving DecidableEq, Repr

/-- The two dispatch tables, 256 entries each (R42). -/
structure Tables where
  primary : Vector TableEntry 256
  secondary : Vector TableEntry 256
  deriving DecidableEq, Repr

end Sys2Proof
end

