-- ==== Sys2Proof/Config.lean ====
section
/-! DEFINITION. What an implementation fixes: the launch parameters of 00_scope R7, the byte an
unlisted memory address reads as, and the answers of an injected device context, which the spec leaves
open (R69, R70). No instruction has an open result value. -/

namespace Sys2Proof

/-- What a byte of memory that the memory list does not name reads as.
DESIGN CHOICE (log 3), unsafe for statements about the run from reset: the spec's MEM_INIT is a
launch input (R7, R73). Any MEM_INIT is some memory list relative to this byte. -/
def Config.unlistedByte : Byte := 0x00

/-! ## The twelve operations of an injected device context (R70)

The context is opaque to the core (R69). Its state is a number, its operations are constants without a
body: nothing is known of an answer, a side effect or the relation of two calls (log 4). -/

opaque Config.readByte : Nat → Dword → Byte × Nat
opaque Config.readWord : Nat → Dword → Word × Nat
opaque Config.readDword : Nat → Dword → Dword × Nat
opaque Config.writeByte : Nat → Dword → Byte → Nat
opaque Config.writeWord : Nat → Dword → Word → Nat
opaque Config.writeDword : Nat → Dword → Dword → Nat
opaque Config.portReadByte : Nat → Word → Byte × Nat
opaque Config.portReadWord : Nat → Word → Word × Nat
opaque Config.portReadDword : Nat → Word → Dword × Nat
opaque Config.portWriteByte : Nat → Word → Byte → Nat
opaque Config.portWriteWord : Nat → Word → Word → Nat
opaque Config.portWriteDword : Nat → Word → Dword → Nat

/-! ## Launch -/

/-- `BUS` (R7): the reference bus of R73, or an injected context in its first state. -/
inductive Bus where
  | reference
  | injected (ctx : Nat)
  deriving DecidableEq, Repr

/-- Selector and base of one non-code segment at launch (R7 `SEG_INIT`). -/
structure SegInit where
  selector : Word
  base : Dword
  deriving DecidableEq, Repr

/-- The launch parameters of R7. -/
structure Launch where
  /-- `GPR_INIT`, registers 0 to 7 in order. -/
  gprInit : Vector Word 8
  /-- `SEG_INIT` for SS, DS, ES, FS, GS. -/
  ssInit : SegInit
  dsInit : SegInit
  esInit : SegInit
  fsInit : SegInit
  gsInit : SegInit
  /-- `BUS`. -/
  bus : Bus
  /-- `MEM_INIT`, the first contents of the reference RAM, as the cells that differ from `Config.unlistedByte`. -/
  memInit : List Host.Cell
  /-- `DESCRIPTORS`. -/
  descriptors : List Descriptor
  /-- `LEN_COUNTS_OPERAND_BYTES`. -/
  lenCounts : Bool
  /-- `CPU_TYPE`, read by no rule (log 7). -/
  cpuType : Nat
  deriving DecidableEq, Repr

end Sys2Proof
end

