-- ==== Sys2Proof/WellFormed.lean ====
section
/-! DEFINITION. Which terms of `Instr` are instructions: those that some byte sequence of the
baseline opcode map encodes. -/

namespace Sys2Proof

/-- The 34 opcode bytes of the baseline descriptor list and the escape byte (R95, R96). -/
def mappedOpcodes : List Byte :=
  [0x26, 0x2E, 0x36, 0x3E, 0x64, 0x65] ++
  [0x88, 0x89, 0x8A, 0x8B, 0x8C, 0x8E] ++
  [0xB0, 0xB1, 0xB2, 0xB3, 0xB4, 0xB5, 0xB6, 0xB7] ++
  [0xB8, 0xB9, 0xBA, 0xBB, 0xBC, 0xBD, 0xBE, 0xBF] ++
  [0xC6, 0xC7, 0xE9, 0xEA, 0xEB, 0xFB] ++ [0x0F]

/-- mod 0 with rm 6 is the direct form, so `[BP]` without a displacement does not exist (R101). -/
def RM.wellFormed : RM → Bool
  | .reg _ => true
  | .mem0 base => base != .bp
  | .direct _ => true
  | .mem8 _ _ => true
  | .mem16 _ _ => true

/-- With `reg` 0 an immediate is present, so the form without one has another `reg` (R156, R157). -/
def ImmForm.wellFormed {w : Nat} : ImmForm w → Bool
  | .value _ => true
  | .noMeaning reg => reg != 0

/-- An instruction is well formed when its operand forms exist and, for an unhandled byte, when
the baseline map leaves that byte without a handler. -/
def Instr.wellFormed : Instr → Bool
  | .segEs => true
  | .segCs => true
  | .segSs => true
  | .segDs => true
  | .segFs => true
  | .segGs => true
  | .movRm8R8 rm _ => rm.wellFormed
  | .movRm16R16 rm _ => rm.wellFormed
  | .movR8Rm8 _ rm => rm.wellFormed
  | .movR16Rm16 _ rm => rm.wellFormed
  | .movRm16Sreg rm _ => rm.wellFormed
  | .movSregRm16 _ rm => rm.wellFormed
  | .movR8Imm8 _ _ => true
  | .movR16Imm16 _ _ => true
  | .movRm8Imm8 rm src => rm.wellFormed && src.wellFormed
  | .movRm16Imm16 rm src => rm.wellFormed && src.wellFormed
  | .jmpRel16 _ => true
  | .jmpPtr16 _ _ => true
  | .jmpRel8 _ => true
  | .sti => true
  | .escape _ => true
  | .unhandled b => !(mappedOpcodes.contains b)

end Sys2Proof
end

