-- ==== Sys2Proof/Decode.lean ====
section
/-! DEFINITION. From bytes to instructions and back (30_encoding): register numbers, ModRM fields,
the baseline descriptor list, the dispatch tables, the decoder, the encoder. -/

namespace Sys2Proof

/-! ## Numbers of registers, segments and addressing bases -/

/-- R20: `0 AX, 1 CX, 2 DX, 3 BX, 4 SP, 5 BP, 6 SI, 7 DI`. -/
def Reg16.toField : Reg16 → Field3
  | .ax => 0 | .cx => 1 | .dx => 2 | .bx => 3 | .sp => 4 | .bp => 5 | .si => 6 | .di => 7

def Reg16.ofField (n : Field3) : Reg16 :=
  match n.toNat with
  | 0 => .ax | 1 => .cx | 2 => .dx | 3 => .bx | 4 => .sp | 5 => .bp | 6 => .si | _ => .di

/-- R22: `0 AL, 1 CL, 2 DL, 3 BL, 4 AH, 5 CH, 6 DH, 7 BH`. -/
def Reg8.toField : Reg8 → Field3
  | .al => 0 | .cl => 1 | .dl => 2 | .bl => 3 | .ah => 4 | .ch => 5 | .dh => 6 | .bh => 7

def Reg8.ofField (n : Field3) : Reg8 :=
  match n.toNat with
  | 0 => .al | 1 => .cl | 2 => .dl | 3 => .bl | 4 => .ah | 5 => .ch | 6 => .dh | _ => .bh

/-- R25: `0 ES, 1 CS, 2 SS, 3 DS, 4 FS, 5 GS`; 6 and 7 name no segment. -/
def Seg.ofField (n : Field3) : Option Seg :=
  match n.toNat with
  | 0 => some .es | 1 => some .cs | 2 => some .ss | 3 => some .ds | 4 => some .fs | 5 => some .gs
  | _ => none

/-- R101: the `rm` value of each base and index combination. -/
def EaBase.toField : EaBase → Field3
  | .bxsi => 0 | .bxdi => 1 | .bpsi => 2 | .bpdi => 3 | .si => 4 | .di => 5 | .bp => 6 | .bx => 7

def EaBase.ofField (n : Field3) : EaBase :=
  match n.toNat with
  | 0 => .bxsi | 1 => .bxdi | 2 => .bpsi | 3 => .bpdi | 4 => .si | 5 => .di | 6 => .bp | _ => .bx

/-- The 16-bit register that holds an 8-bit register (R22). -/
def Reg8.parent : Reg8 → Reg16
  | .al => .ax | .cl => .cx | .dl => .dx | .bl => .bx
  | .ah => .ax | .ch => .cx | .dh => .dx | .bh => .bx

/-- Whether an 8-bit register is the high half of its parent (R22). -/
def Reg8.isHigh : Reg8 → Bool
  | .al => false | .cl => false | .dl => false | .bl => false
  | .ah => true | .ch => true | .dh => true | .bh => true

/-- SS for the BP-based forms, DS for the others (R101, R132). -/
def EaBase.defaultSeg : EaBase → Seg
  | .bxsi => .ds
  | .bxdi => .ds
  | .bpsi => .ss
  | .bpdi => .ss
  | .si => .ds
  | .di => .ds
  | .bp => .ss
  | .bx => .ds

/-! ## Byte order and bit fields -/

/-- A 16-bit field of the instruction stream: its first byte is bits 7:0 (R72, R94). -/
def wordOfBytes (lo hi : Byte) : Word := hi ++ lo

/-- Bits 7:0 of a word. -/
def lowByte (w : Word) : Byte := w.extractLsb' 0 8

/-- Bits 15:8 of a word. -/
def highByte (w : Word) : Byte := w.extractLsb' 8 8

/-- ModRM bits 7:6 (R93). -/
def modField (m : Byte) : BitVec 2 := m.extractLsb' 6 2

/-- ModRM bits 5:3 (R93). -/
def regField (m : Byte) : Field3 := m.extractLsb' 3 3

/-- ModRM bits 2:0 (R93); also `opcode[2:0]` of B0 to BF (R92, R150, R151). -/
def rmField (m : Byte) : Field3 := m.extractLsb' 0 3

/-- The ModRM byte of three fields (R93). -/
def modrmByte (mod : BitVec 2) (reg rm : Field3) : Byte := mod ++ reg ++ rm

/-! ## Descriptors and dispatch tables -/

/-- A baseline row: no escape flag, no 32-bit handler (R95). -/
def baselineRow (opcode : Byte) (h : Handler) : Descriptor := ⟨opcode, false, h, none⟩

/-- The baseline descriptor list, rows in the order of R95. -/
def baselineDescriptors : List Descriptor :=
  [baselineRow 0x26 (.override .es), baselineRow 0x2E (.override .cs),
   baselineRow 0x36 (.override .ss), baselineRow 0x3E (.override .ds),
   baselineRow 0x64 (.override .fs), baselineRow 0x65 (.override .gs)] ++
  [baselineRow 0x88 .movRm8R8, baselineRow 0x89 .movRm16R16,
   baselineRow 0x8A .movR8Rm8, baselineRow 0x8B .movR16Rm16,
   baselineRow 0x8C .movRm16Sreg, baselineRow 0x8E .movSregRm16] ++
  ([0xB0, 0xB1, 0xB2, 0xB3, 0xB4, 0xB5, 0xB6, 0xB7].map fun b => baselineRow b .movR8Imm8) ++
  ([0xB8, 0xB9, 0xBA, 0xBB, 0xBC, 0xBD, 0xBE, 0xBF].map fun b => baselineRow b .movR16Imm16) ++
  [baselineRow 0xC6 .movRm8Imm8, baselineRow 0xC7 .movRm16Imm16,
   baselineRow 0xE9 .jmpRel16, baselineRow 0xEA .jmpPtr16, baselineRow 0xEB .jmpRel8,
   baselineRow 0xFB .sti]

/-- One round of R118's install loop. -/
def installDescriptor (t : Tables) (d : Descriptor) : Tables :=
  if d.escape then
    { t with secondary := t.secondary.set d.opcode.toNat (.handler d.handler16) d.opcode.isLt }
  else
    { t with primary := t.primary.set d.opcode.toNat (.handler d.handler16) d.opcode.isLt }

/-- The tables before the install loop (R118): primary UNHANDLED, secondary NOT_ROUTED (R119 a). -/
def emptyTables : Tables := ⟨Vector.replicate 256 .unhandled, Vector.replicate 256 .notRouted⟩

/-- `BuildTables` as R118 writes it: fill, install in list order, then the router at 0x0F. -/
def buildTablesLoop (ds : List Descriptor) : Tables :=
  let t := ds.foldl installDescriptor emptyTables
  { t with primary := t.primary.set 0x0F .escapeRouter }

/-- What slot `i` of a table holds after the install loop: the handler of the last descriptor in
the list that names the slot, else the table's default (R118, R119 c). -/
def slotEntry (ds : List Descriptor) (escape : Bool) (default : TableEntry) (i : Nat) : TableEntry :=
  ds.foldl (fun e d => if d.escape == escape && d.opcode.toNat == i then .handler d.handler16 else e)
    default

/-- A table given by what each of its 256 slots holds. -/
def tableOf (f : Nat → TableEntry) : Vector TableEntry 256 :=
  ⟨⟨(List.range 256).map f⟩, by simp⟩

/-- `BuildTables` (R118), slot by slot: the same tables as `buildTablesLoop`, and quick to evaluate. -/
def buildTables (ds : List Descriptor) : Tables where
  primary := tableOf fun i => if i = 0x0F then .escapeRouter else slotEntry ds false .unhandled i
  secondary := tableOf (slotEntry ds true .notRouted)

/-- The tables of the baseline descriptor list (R95, R96). -/
def baselineTables : Tables := buildTables baselineDescriptors

/-- The entry a byte finds: in the secondary table after the router, else in the primary table
(R117, R121). -/
def Tables.entry (t : Tables) (inSecondary : Bool) (b : Byte) : TableEntry :=
  if inSecondary then t.secondary[b.toNat]'b.isLt else t.primary[b.toNat]'b.isLt

/-! ## Decoding -/

/-- Why a byte sequence holds no instruction. Every complete sequence holds one (R100: a byte with
no handler is an instruction too), so the only reason is that the bytes end too early. -/
inductive DecodeError where
  | truncated
  deriving DecidableEq, Repr

/-- A plan read from a list of bytes, a word's first byte being its bits 7:0 (R72, R94). -/
def Plan.onBytes {α : Type} : Plan α → List Byte → Option (α × List Byte)
  | .done v, bs => some (v, bs)
  | .note _ p, bs => p.onBytes bs
  | .byte next, bs =>
    match bs with
    | b :: rest => (next b).onBytes rest
    | [] => none
  | .word next, bs =>
    match bs with
    | lo :: hi :: rest => (next (wordOfBytes lo hi)).onBytes rest
    | [_] => none
    | [] => none

/-- `DecodeModRM` (R130) as a plan: the ModRM byte, `ctx.reg`, the displacement that the form has
(R101, R133), the operand; then `k` with the operand form and the `reg` field. -/
def modRMPlan {α : Type} (k : RM → Field3 → Plan α) : Plan α :=
  .byte fun m =>
    let found := fun rm => Plan.note (.operand rm) (k rm (regField m))
    .note (.reg (regField m)) <|
      if modField m = 3 then found (.reg (rmField m))
      else if modField m = 0 then
        if rmField m = 6 then .word fun d => found (.direct d)
        else found (.mem0 (EaBase.ofField (rmField m)))
      else if modField m = 1 then .byte fun d => found (.mem8 (EaBase.ofField (rmField m)) d)
      else .word fun d => found (.mem16 (EaBase.ofField (rmField m)) d)

/-- A ModRM byte and its displacement: operand form and `reg` field, remaining bytes. -/
def decodeModRM : List Byte → Option ((RM × Field3) × List Byte) :=
  (modRMPlan fun rm reg => .done (rm, reg)).onBytes

/-- The instruction a segment-override entry stands for (R125; log 17). -/
def overrideInstr : Seg → Instr
  | .es => .segEs | .cs => .segCs | .ss => .segSs | .ds => .segDs | .fs => .segFs | .gs => .segGs

/-- What a handler fetches after its opcode byte `b`, and the instruction those bytes are
(41_data_transfer, 42_control_and_flags). With a `reg` field that has no meaning, C6 and C7 fetch no
immediate (R156, R157). -/
def operandPlan (h : Handler) (b : Byte) : Plan Instr :=
  match h with
  | .override s => .done (overrideInstr s)
  | .movRm8R8 => modRMPlan fun rm reg => .done (.movRm8R8 rm (Reg8.ofField reg))
  | .movRm16R16 => modRMPlan fun rm reg => .done (.movRm16R16 rm (Reg16.ofField reg))
  | .movR8Rm8 => modRMPlan fun rm reg => .done (.movR8Rm8 (Reg8.ofField reg) rm)
  | .movR16Rm16 => modRMPlan fun rm reg => .done (.movR16Rm16 (Reg16.ofField reg) rm)
  | .movRm16Sreg => modRMPlan fun rm reg => .done (.movRm16Sreg rm reg)
  | .movSregRm16 => modRMPlan fun rm reg => .done (.movSregRm16 reg rm)
  | .movR8Imm8 => .byte fun v => .done (.movR8Imm8 (Reg8.ofField (rmField b)) v)
  | .movR16Imm16 => .word fun v => .done (.movR16Imm16 (Reg16.ofField (rmField b)) v)
  | .movRm8Imm8 => modRMPlan fun rm reg =>
    if reg = 0 then .byte fun v => .done (.movRm8Imm8 rm (.value v))
    else .done (.movRm8Imm8 rm (.noMeaning reg))
  | .movRm16Imm16 => modRMPlan fun rm reg =>
    if reg = 0 then .word fun v => .done (.movRm16Imm16 rm (.value v))
    else .done (.movRm16Imm16 rm (.noMeaning reg))
  | .jmpRel16 => .word fun d => .done (.jmpRel16 d)
  | .jmpPtr16 => .word fun off => .word fun sel => .done (.jmpPtr16 off sel)
  | .jmpRel8 => .byte fun d => .done (.jmpRel8 d)
  | .sti => .done .sti

/-- The operands a handler takes from the bytes after its opcode byte. -/
def decodeHandler (h : Handler) (b : Byte) : List Byte → Option (Instr × List Byte) :=
  (operandPlan h b).onBytes

/-- Decoding from an opcode-stage byte on, in the primary or the secondary table (R117, R121). -/
def decodeFrom (t : Tables) : Bool → List Byte → Except DecodeError (Instr × List Byte)
  | _, [] => .error .truncated
  | inSecondary, b :: bs =>
    match t.entry inSecondary b with
    | .unhandled => .ok (.unhandled b, bs)
    | .notRouted => .ok (.escape b, bs)
    | .escapeRouter => decodeFrom t true bs
    | .handler h =>
      match decodeHandler h b bs with
      | some r => .ok r
      | none => .error .truncated

/-- The instruction that starts a byte sequence, with the bytes after it. A segment-override prefix
is an instruction of its own (a row of the opcode table); the engine goes on to the next in the same
tick (log 8). -/
def decode (t : Tables) (bs : List Byte) : Except DecodeError (Instr × List Byte) :=
  decodeFrom t false bs

/-! ## Encoding, from the same tables of 30_encoding -/

/-- ModRM byte and displacement (R93, R94, R101). -/
def encodeModRM (rm : RM) (reg : Field3) : List Byte :=
  match rm with
  | .reg n => [modrmByte 3 reg n]
  | .mem0 base => [modrmByte 0 reg base.toField]
  | .direct d => [modrmByte 0 reg 6, lowByte d, highByte d]
  | .mem8 base d => [modrmByte 1 reg base.toField, d]
  | .mem16 base d => [modrmByte 2 reg base.toField, lowByte d, highByte d]

/-- An opcode byte with a register number in its low three bits (R150, R151). -/
def opcodePlus (high5 : BitVec 5) (reg : Field3) : Byte := high5 ++ reg

/-- The `reg` field of C6 and C7 (R156, R157). -/
def ImmForm.regField {w : Nat} : ImmForm w → Field3
  | .value _ => 0
  | .noMeaning reg => reg

/-- The immediate bytes of C6. -/
def immBytes8 : ImmForm 8 → List Byte
  | .value v => [v]
  | .noMeaning _ => []

/-- The immediate bytes of C7. -/
def immBytes16 : ImmForm 16 → List Byte
  | .value v => [lowByte v, highByte v]
  | .noMeaning _ => []

/-- The bytes of an instruction under the baseline map (R90, R95). -/
def encode : Instr → List Byte
  | .segEs => [0x26]
  | .segCs => [0x2E]
  | .segSs => [0x36]
  | .segDs => [0x3E]
  | .segFs => [0x64]
  | .segGs => [0x65]
  | .movRm8R8 rm reg => 0x88 :: encodeModRM rm reg.toField
  | .movRm16R16 rm reg => 0x89 :: encodeModRM rm reg.toField
  | .movR8Rm8 reg rm => 0x8A :: encodeModRM rm reg.toField
  | .movR16Rm16 reg rm => 0x8B :: encodeModRM rm reg.toField
  | .movRm16Sreg rm sreg => 0x8C :: encodeModRM rm sreg
  | .movSregRm16 sreg rm => 0x8E :: encodeModRM rm sreg
  | .movR8Imm8 reg v => [opcodePlus 0b10110 reg.toField, v]
  | .movR16Imm16 reg v => [opcodePlus 0b10111 reg.toField, lowByte v, highByte v]
  | .movRm8Imm8 rm src => 0xC6 :: (encodeModRM rm src.regField ++ immBytes8 src)
  | .movRm16Imm16 rm src => 0xC7 :: (encodeModRM rm src.regField ++ immBytes16 src)
  | .jmpRel16 d => [0xE9, lowByte d, highByte d]
  | .jmpPtr16 off sel => [0xEA, lowByte off, highByte off, lowByte sel, highByte sel]
  | .jmpRel8 d => [0xEB, d]
  | .sti => [0xFB]
  | .escape b2 => [0x0F, b2]
  | .unhandled b => [b]

/-! ## Operand sizes -/

/-- Bytes the ModRM decoder consumes, the ModRM byte included (R133). -/
def RM.size : RM → Nat
  | .reg _ => 1
  | .mem0 _ => 1
  | .direct _ => 3
  | .mem8 _ _ => 2
  | .mem16 _ _ => 3

/-- Bytes the handler fetches after the opcode stage (R90 rows 4 to 6). -/
def Instr.operandBytes : Instr → Nat
  | .segEs => 0
  | .segCs => 0
  | .segSs => 0
  | .segDs => 0
  | .segFs => 0
  | .segGs => 0
  | .movRm8R8 rm _ => rm.size
  | .movRm16R16 rm _ => rm.size
  | .movR8Rm8 _ rm => rm.size
  | .movR16Rm16 _ rm => rm.size
  | .movRm16Sreg rm _ => rm.size
  | .movSregRm16 _ rm => rm.size
  | .movR8Imm8 _ _ => 1
  | .movR16Imm16 _ _ => 2
  | .movRm8Imm8 rm src => rm.size + (immBytes8 src).length
  | .movRm16Imm16 rm src => rm.size + (immBytes16 src).length
  | .jmpRel16 _ => 2
  | .jmpPtr16 _ _ => 4
  | .jmpRel8 _ => 1
  | .sti => 0
  | .escape _ => 0
  | .unhandled _ => 0

/-- Segment overrides: after them the opcode stage goes on in the same tick (R97, R125). -/
def Instr.isPrefix : Instr → Bool
  | .segEs => true
  | .segCs => true
  | .segSs => true
  | .segDs => true
  | .segFs => true
  | .segGs => true
  | .movRm8R8 _ _ => false
  | .movRm16R16 _ _ => false
  | .movR8Rm8 _ _ => false
  | .movR16Rm16 _ _ => false
  | .movRm16Sreg _ _ => false
  | .movSregRm16 _ _ => false
  | .movR8Imm8 _ _ => false
  | .movR16Imm16 _ _ => false
  | .movRm8Imm8 _ _ => false
  | .movRm16Imm16 _ _ => false
  | .jmpRel16 _ => false
  | .jmpPtr16 _ _ => false
  | .jmpRel8 _ => false
  | .sti => false
  | .escape _ => false
  | .unhandled _ => false

/-! ## The opcode table's words -/

/-- The longest instruction under the baseline (R91): 8 prefixes, C7, ModRM, disp16, imm16. -/
def longestInstruction : Nat := 14

/-- The bytes of a word of spec/opcode_table.json, padded with zeros to the longest instruction. The
table writes a two-byte row with the opcode in its high byte (match 0xC600, mask 0xFF38; match
0x0F00, mask 0xFF00), so the first byte of the stream is the word's most significant byte (log 10). -/
def tableWordBytes (nbits w : Nat) : List Byte :=
  let n := nbits / 8
  ((List.range n).map fun k => BitVec.ofNat 8 (w >>> (8 * (n - 1 - k)))) ++
    List.replicate (longestInstruction - n) 0

/-- The instruction that the decoder reads from a word of spec/opcode_table.json, every later bit 0. -/
def decodeTableWord (nbits w : Nat) : Option Instr :=
  match decode baselineTables (tableWordBytes nbits w) with
  | .ok (i, _) => some i
  | .error _ => none

end Sys2Proof
end

