-- ==== Sys2Proof/Machine/Parts.lean ====
section
/-! DEFINITION. The parts of the state, as types: registers, segments, decode context, fault
records, events, bus calls (10_state, 60_exceptions). -/

namespace Sys2Proof.Machine

/-- The general register file (R20). -/
structure Regs where
  ax : Word
  cx : Word
  dx : Word
  bx : Word
  sp : Word
  bp : Word
  si : Word
  di : Word
  deriving DecidableEq, Repr

/-- The access-flags record (R26): executable, readable, writable, default size. -/
structure Access where
  x : Bool
  r : Bool
  w : Bool
  d : Bool
  deriving DecidableEq, Repr

/-- A segment descriptor (R24). -/
structure SegDesc where
  selector : Word
  base : Dword
  limit : Word
  access : Access
  deriving DecidableEq, Repr

/-- The six segment descriptors (R24). -/
structure Segs where
  es : SegDesc
  cs : SegDesc
  ss : SegDesc
  ds : SegDesc
  fs : SegDesc
  gs : SegDesc
  deriving DecidableEq, Repr

/-- Operand or address size (R38). `bits32` is the size the spec anticipates and no rule sets
(R124, R135; log 20). -/
inductive SizeMode where
  | bits16
  | bits32
  deriving DecidableEq, Repr

/-- What the ModRM decoder selected: `ctx.modrm_kind` with the fields that hold a value under that
kind (R39: `rm_reg` for REG, `mem_seg` and `ea` for MEM; log 13). -/
inductive Operand where
  | none
  | reg (rmReg : Field3)
  | mem (seg : Seg) (ea : Word)
  deriving DecidableEq, Repr

/-- The per-instruction decode context (R39). `ctx.len` is the length of `bytes` (log 13). -/
structure Ctx where
  bytes : List Byte
  override : Option Seg
  reg : Option Field3
  operand : Operand
  deriving DecidableEq, Repr

/-- Why an Unimplemented stop was taken (R207). -/
inductive StopReason where
  | protectedLoad
  | protectedTranslation
  | size32
  | c6Reg
  | c7Reg
  | sregRead
  | sregWrite
  deriving DecidableEq, Repr

/-- `RUNNING` or `STOPPED(reason)` (R43). -/
inductive Status where
  | running
  | stopped (reason : StopReason)
  deriving DecidableEq, Repr

/-- Classes of structured faults (R200). -/
inductive FaultClass where
  | hardwareFault
  | notRouted
  deriving DecidableEq, Repr

/-- A structured fault record (R200). -/
structure FaultRecord where
  cls : FaultClass
  vector : Option Byte
  error : Word
  real : Bool
  deriving DecidableEq, Repr

/-- The diagnostic events of `trace` (R220). -/
inductive Event where
  | decoded (sel : Word) (off : Dword) (b : Byte)
  | unhandled (sel : Word) (off : Dword) (b : Byte)
  | faultReported (f : FaultRecord)
  | stopped (reason : StopReason)
  deriving DecidableEq, Repr

/-- The width of a bus or port call (R70): 1, 2 or 4 bytes. -/
inductive Width where
  | byte
  | word
  | dword
  deriving DecidableEq, Repr

/-- One of the twelve bus operations of R70, as the core made it. Values are zero-extended to 32
bits. This record is the model's own observation (log 14). -/
inductive BusCall where
  | read (w : Width) (addr : Dword) (value : Dword)
  | write (w : Width) (addr : Dword) (value : Dword)
  | portRead (w : Width) (port : Word) (value : Dword)
  | portWrite (w : Width) (port : Word) (value : Dword)
  deriving DecidableEq, Repr

/-- The access kinds of the translator (R62). -/
inductive AccessKind where
  | exec
  | read
  | write
  deriving DecidableEq, Repr

/-- Memory of the reference RAM (R73): the cells that differ from `Config.unlistedByte`, by rising
address. -/
abbrev Memory := List Host.Cell

/-- The device context behind the bus (R69): the reference RAM and ports of R73, or an injected context,
known only by its present state (R7 `BUS`; log 4). -/
inductive Device where
  | reference (mem : Memory)
  | injected (ctx : Nat)
  deriving DecidableEq, Repr

end Sys2Proof.Machine
end

