-- ==== Sys2Proof/Machine/Reset.lean ====
section
/-! DEFINITION. The values that `init` establishes (70_reset_and_hazards R240, R241), and the
default launch parameters. -/

namespace Sys2Proof.Machine

/-- R27: the "default access-flags value". -/
def accDefault : Access := ⟨false, true, true, false⟩

/-- R27: the "execute/read access flags" of the code segment. -/
def accCodeER : Access := ⟨true, true, false, false⟩

/-- R33: "At reset it is `0x0000FFF0`". -/
def resetIp : Dword := 0x0000FFF0

/-- R34: "only the reserved always-set bit on". -/
def resetFlags : Word := 0x0002

/-- R37: reset value of `cr0`, PE = 0. -/
def resetCr0 : Dword := 0x0000FFF0

/-- R28: selector 0xF000, base 0xFF0000, limit 0xFFFF, execute/read access. -/
def resetCs : SegDesc := ⟨0xF000, 0x00FF0000, 0xFFFF, accCodeER⟩

/-- R28: a non-code segment at reset, its selector and base from `SEG_INIT`. -/
def resetSeg (p : SegInit) : SegDesc := ⟨p.selector, p.base, 0xFFFF, accDefault⟩

/-- The six segments at reset (R28, R240). -/
def resetSegs (p : Launch) : Segs where
  es := resetSeg p.esInit
  cs := resetCs
  ss := resetSeg p.ssInit
  ds := resetSeg p.dsInit
  fs := resetSeg p.fsInit
  gs := resetSeg p.gsInit

/-- R21, R240: the general registers take `GPR_INIT`. -/
def resetRegs (p : Launch) : Regs where
  ax := p.gprInit[0]
  cx := p.gprInit[1]
  dx := p.gprInit[2]
  bx := p.gprInit[3]
  sp := p.gprInit[4]
  bp := p.gprInit[5]
  si := p.gprInit[6]
  di := p.gprInit[7]

/-- The decode-context reset (R40): `bytes`, `reg` and the operand fields hold no value. -/
def emptyCtx : Ctx := ⟨[], none, none, .none⟩

/-- The device context at launch: `BUS`, with `MEM_INIT` in the reference RAM (R7, R73). -/
def launchDevice (p : Launch) : Device :=
  match p.bus with
  | .reference => .reference p.memInit
  | .injected ctx => .injected ctx

/-- The launch of `State.reset`. The baseline descriptors are R95's. `LEN_COUNTS_OPERAND_BYTES` is
R7's default, the bus the reference bus of R73. DESIGN CHOICE, unsafe (logs 1, 2, 3, 7): every open launch value is zero. -/
def defaultLaunch : Launch where
  gprInit := Vector.replicate 8 0
  ssInit := ⟨0, 0⟩
  dsInit := ⟨0, 0⟩
  esInit := ⟨0, 0⟩
  fsInit := ⟨0, 0⟩
  gsInit := ⟨0, 0⟩
  bus := .reference
  memInit := []
  descriptors := baselineDescriptors
  lenCounts := false
  cpuType := 0

end Sys2Proof.Machine
end

