-- ==== Sys2Proof/Machine/State.lean ====
section
/-! DEFINITION. The machine's state (10_state), the reasons a step can stop, and reset. -/

namespace Sys2Proof.Machine

/-- The state tuple of 10_state, the device context behind the bus (R69, R73; log 4), the
configuration bit that `step` reads (R45; log 5) and the model's own record of bus calls (log 14). -/
structure State where
  /-- General registers (R20). -/
  regs : Regs
  /-- Segment descriptors (R24). -/
  segs : Segs
  /-- Instruction pointer (R33). -/
  ip : Dword
  /-- Flags, as stored (R34, R35); read through `State.readFlags`. -/
  flags : Word
  /-- Control register 0, PE = bit 0 (R37). -/
  cr0 : Dword
  /-- Operand size (R38). -/
  opsize : SizeMode
  /-- Address size (R38). -/
  addrsize : SizeMode
  /-- Decode context (R39). -/
  ctx : Ctx
  /-- Deferred interrupt-enable flag (R41). -/
  deferredIe : Bool
  /-- Primary and secondary dispatch table (R42). -/
  tables : Tables
  /-- Machine status (R43). -/
  status : Status
  /-- Faults caught so far, oldest first (R44). -/
  faults : List FaultRecord
  /-- Diagnostic events so far, oldest first (R44, R220). -/
  trace : List Event
  /-- The device context, which the core reaches only through the twelve calls of R70. -/
  device : Device
  /-- `LEN_COUNTS_OPERAND_BYTES` (R7, R115): configuration, written by nothing. -/
  lenCounts : Bool
  /-- Bus and port calls made so far, oldest first: the model's own observation. -/
  busLog : List BusCall
  deriving DecidableEq, Repr

/-- Why a step has no next state. -/
inductive Fault where
  /-- Raised by `step` on a machine that an Unimplemented stop has halted: "neither `tick` nor `run`
  has a step" (R43). Safe: the machine does nothing there. -/
  | stopped (reason : StopReason)
  /-- Raised by the r/m accessors while the decode context holds no operand, the model fault of R40
  and R134. No instruction raises it: each has its operand in the context first. Safe. -/
  | operandUnset
  /-- Raised by nobody: the engine's bound of ten opcode-stage bytes is never passed. Safe. -/
  | engineOverrun
  deriving DecidableEq, Repr

/-- Why a step refuses an instruction. -/
inductive Refusal where
  /-- Raised by `exec` for an instruction that has no meaning yet; no instruction is left in that
  state. Safe. -/
  | notModelled (mnemonic : String)
  deriving DecidableEq, Repr

/-- `init(type)` (R240): the reset state of a launch. It makes no bus call. `CPU_TYPE` is read by no
rule (R45). -/
def State.init (p : Launch) : State where
  regs := resetRegs p
  segs := resetSegs p
  ip := resetIp
  flags := resetFlags
  cr0 := resetCr0
  opsize := .bits16
  addrsize := .bits16
  ctx := emptyCtx
  deferredIe := false
  tables := buildTables p.descriptors
  status := .running
  faults := []
  trace := []
  device := launchDevice p
  lenCounts := p.lenCounts
  busLog := []

/-- The machine right after reset, with the default launch (logs 1 to 7). -/
def State.reset : State := State.init defaultLaunch

end Sys2Proof.Machine
end

