-- ==== Sys2Proof/Machine/Memory.lean ====
section
/-! DEFINITION. The reference RAM of 20_memory R73: byte cells in one canonical form, and the 1-, 2-
and 4-byte accesses built from them, little-endian. -/

namespace Sys2Proof.Machine

/-- The byte at address `n`. -/
def Memory.readAt : Memory → Nat → Byte
  | [], _ => Config.unlistedByte
  | (k, v) :: rest, n => if k = n then v else Memory.readAt rest n

/-- Put a cell before a canonical list of higher addresses, unless it holds the unlisted byte. -/
def Memory.cons (n : Nat) (v : Byte) (m : Memory) : Memory :=
  if v = Config.unlistedByte then m else (n, v) :: m

/-- Store a byte at address `n`, keeping the canonical form. -/
def Memory.writeAt : Memory → Nat → Byte → Memory
  | [], n, v => Memory.cons n v []
  | (k, w) :: rest, n, v =>
    if n < k then Memory.cons n v ((k, w) :: rest)
    else if n = k then Memory.cons n v rest
    else (k, w) :: Memory.writeAt rest n v

/-- Addresses from `lo` on rise strictly, stay below 2^32, and no cell holds the unlisted byte. -/
def Memory.wfFrom : Nat → Memory → Bool
  | _, [] => true
  | lo, (k, v) :: rest =>
    decide (lo ≤ k) && decide (k < 2 ^ 32) && (v != Config.unlistedByte) && Memory.wfFrom (k + 1) rest

/-- The canonical form: equal memories are equal lists. -/
def Memory.wf (m : Memory) : Bool := Memory.wfFrom 0 m

/-- `M[a]`. -/
def Memory.read8 (m : Memory) (a : Dword) : Byte := m.readAt a.toNat

/-- `M[a+1] : M[a]`, addresses modulo 2^32 (R73). -/
def Memory.read16 (m : Memory) (a : Dword) : Word := wordOfBytes (m.read8 a) (m.read8 (a + 1))

/-- `M[a+3] : M[a+2] : M[a+1] : M[a]` (R73). -/
def Memory.read32 (m : Memory) (a : Dword) : Dword :=
  m.read8 (a + 3) ++ m.read8 (a + 2) ++ m.read8 (a + 1) ++ m.read8 a

/-- `M[a] <- v`. -/
def Memory.write8 (m : Memory) (a : Dword) (v : Byte) : Memory := m.writeAt a.toNat v

/-- `M[a] <- v[7:0]; M[a+1] <- v[15:8]` (R73). -/
def Memory.write16 (m : Memory) (a : Dword) (v : Word) : Memory :=
  (m.write8 a (lowByte v)).write8 (a + 1) (highByte v)

/-- `M[a] <- v[7:0]` to `M[a+3] <- v[31:24]` (R73). -/
def Memory.write32 (m : Memory) (a : Dword) (v : Dword) : Memory :=
  (((m.write8 a (v.extractLsb' 0 8)).write8 (a + 1) (v.extractLsb' 8 8)).write8 (a + 2)
    (v.extractLsb' 16 8)).write8 (a + 3) (v.extractLsb' 24 8)

/-- Store bytes at successive addresses, modulo 2^32. -/
def Memory.writeBytes : Memory → Dword → List Byte → Memory
  | m, _, [] => m
  | m, a, b :: bs => (m.write8 a b).writeBytes (a + 1) bs

/-- `n` bytes of memory from address `a` on, modulo 2^32. -/
def bytesFrom (m : Memory) : Nat → Dword → List Byte
  | 0, _ => []
  | n + 1, a => m.read8 a :: bytesFrom m n (a + 1)

end Sys2Proof.Machine
end

