-- ==== Sys2Proof/Machine/Device.lean ====
section
/-! DEFINITION. The twelve operations of the device context (20_memory R70): the reference RAM and ports
of R73, or the calls of an injected context, whose answers and side effects are open (log 4). -/

namespace Sys2Proof.Machine

/-- The reference RAM as the host sees it; of an injected context nothing can be seen. No step reads
it. -/
def Device.mem : Device → Memory
  | .reference m => m
  | .injected _ => []

def State.mem (s : State) : Memory := s.device.mem

/-! ## Memory calls: the value answered, and the context after the call -/

def Device.readByte (a : Dword) : Device → Byte × Device
  | .reference m => (m.read8 a, .reference m)
  | .injected c => ((Config.readByte c a).1, .injected (Config.readByte c a).2)

def Device.readWord (a : Dword) : Device → Word × Device
  | .reference m => (m.read16 a, .reference m)
  | .injected c => ((Config.readWord c a).1, .injected (Config.readWord c a).2)

def Device.readDword (a : Dword) : Device → Dword × Device
  | .reference m => (m.read32 a, .reference m)
  | .injected c => ((Config.readDword c a).1, .injected (Config.readDword c a).2)

def Device.writeByte (a : Dword) (v : Byte) : Device → Device
  | .reference m => .reference (m.write8 a v)
  | .injected c => .injected (Config.writeByte c a v)

def Device.writeWord (a : Dword) (v : Word) : Device → Device
  | .reference m => .reference (m.write16 a v)
  | .injected c => .injected (Config.writeWord c a v)

def Device.writeDword (a : Dword) (v : Dword) : Device → Device
  | .reference m => .reference (m.write32 a v)
  | .injected c => .injected (Config.writeDword c a v)

/-! ## Port calls: the ports of the reference bus read 0 and ignore writes -/

def Device.portReadByte (p : Word) : Device → Byte × Device
  | .reference m => (0, .reference m)
  | .injected c => ((Config.portReadByte c p).1, .injected (Config.portReadByte c p).2)

def Device.portReadWord (p : Word) : Device → Word × Device
  | .reference m => (0, .reference m)
  | .injected c => ((Config.portReadWord c p).1, .injected (Config.portReadWord c p).2)

def Device.portReadDword (p : Word) : Device → Dword × Device
  | .reference m => (0, .reference m)
  | .injected c => ((Config.portReadDword c p).1, .injected (Config.portReadDword c p).2)

def Device.portWriteByte (p : Word) (v : Byte) : Device → Device
  | .reference m => .reference m
  | .injected c => .injected (Config.portWriteByte c p v)

def Device.portWriteWord (p : Word) (v : Word) : Device → Device
  | .reference m => .reference m
  | .injected c => .injected (Config.portWriteWord c p v)

def Device.portWriteDword (p : Word) (v : Dword) : Device → Device
  | .reference m => .reference m
  | .injected c => .injected (Config.portWriteDword c p v)

end Sys2Proof.Machine
end

