-- ==== Sys2Proof/Machine/Ops.lean ====
section
/-! DEFINITION. The named operations over the state: registers, segments, faults and stops, the
address translator, the bus, the data and instruction-stream primitives (10_state, 20_memory,
60_exceptions, 40_engine R114, R115). -/

namespace Sys2Proof.Machine

/-! ## Field updates -/

def State.setIp (s : State) (v : Dword) : State := { s with ip := v }
def State.setSizes (s : State) (op addr : SizeMode) : State := { s with opsize := op, addrsize := addr }
def State.setCtx (s : State) (c : Ctx) : State := { s with ctx := c }
def State.setDeferredIe (s : State) (b : Bool) : State := { s with deferredIe := b }
def State.setStatus (s : State) (st : Status) : State := { s with status := st }
def State.setDevice (s : State) (d : Device) : State := { s with device := d }

/-- `emit E` (00_scope section 5): append a diagnostic event (R220). -/
def State.emit (s : State) (e : Event) : State := { s with trace := s.trace ++ [e] }

/-- Append a fault record to the observation list `faults` (R44). -/
def State.recordFault (s : State) (f : FaultRecord) : State := { s with faults := s.faults ++ [f] }

/-- Record a bus or port call (log 14). -/
def State.logBus (s : State) (c : BusCall) : State := { s with busLog := s.busLog ++ [c] }

/-! ## Registers and segments -/

def Regs.get (g : Regs) : Reg16 → Word
  | .ax => g.ax | .cx => g.cx | .dx => g.dx | .bx => g.bx
  | .sp => g.sp | .bp => g.bp | .si => g.si | .di => g.di

def Regs.set (g : Regs) (r : Reg16) (v : Word) : Regs :=
  match r with
  | .ax => { g with ax := v } | .cx => { g with cx := v }
  | .dx => { g with dx := v } | .bx => { g with bx := v }
  | .sp => { g with sp := v } | .bp => { g with bp := v }
  | .si => { g with si := v } | .di => { g with di := v }

/-- `r16[i]` (R20). -/
def State.r16 (s : State) (r : Reg16) : Word := s.regs.get r

/-- `r16[i] <- v` (R20). -/
def State.setR16 (s : State) (r : Reg16) (v : Word) : State := { s with regs := s.regs.set r v }

/-- `r8[i]` (R22). -/
def State.r8 (s : State) (r : Reg8) : Byte :=
  if r.isHigh then highByte (s.r16 r.parent) else lowByte (s.r16 r.parent)

/-- `r8[i] <- v`: only the addressed half changes (R22). -/
def State.setR8 (s : State) (r : Reg8) (v : Byte) : State :=
  if r.isHigh then s.setR16 r.parent (wordOfBytes (lowByte (s.r16 r.parent)) v)
  else s.setR16 r.parent (wordOfBytes v (highByte (s.r16 r.parent)))

def Segs.get (g : Segs) : Seg → SegDesc
  | .es => g.es | .cs => g.cs | .ss => g.ss | .ds => g.ds | .fs => g.fs | .gs => g.gs

def Segs.set (g : Segs) (r : Seg) (d : SegDesc) : Segs :=
  match r with
  | .es => { g with es := d } | .cs => { g with cs := d } | .ss => { g with ss := d }
  | .ds => { g with ds := d } | .fs => { g with fs := d } | .gs => { g with gs := d }

/-- `seg[s]` (R24). -/
def State.seg (s : State) (g : Seg) : SegDesc := s.segs.get g

def State.setSeg (s : State) (g : Seg) (d : SegDesc) : State := { s with segs := s.segs.set g d }

/-- `cr0[0]` = PE (R37). -/
def State.protectedMode (s : State) : Bool := s.cr0.getLsbD 0

/-! ## What a part of an instruction can do -/

/-- A part of an instruction goes on with a value, or it has ended the instruction (a fault raised
and caught, or a stop: both leave a state), or it hits a model fault. -/
inductive Flow (α : Type) where
  | go (value : α) (s : State)
  | ended (s : State)
  | fault (r : Fault)

/-- Sequencing (00_scope section 5: "statements run in order"). No statement after a raise or a stop
runs (R113). -/
def Flow.bind {α β : Type} (x : Flow α) (f : α → State → Flow β) : Flow β :=
  match x with
  | .go v s => f v s
  | .ended s => .ended s
  | .fault r => .fault r

/-- The outcome of a whole instruction. -/
def Flow.outcome {α : Type} (x : Flow α) : Host.Outcome State Fault Refusal :=
  match x with
  | .go _ s => .next s
  | .ended s => .next s
  | .fault r => .fault r

/-! ## Taking an exception -/

/-- `CatchFault` (R204): the fault is recorded and reported; nothing is saved, vectored, masked or
redirected (R205, R212), so there is nothing to return from (R213). -/
def catchFault (f : FaultRecord) (s : State) : State := (s.recordFault f).emit (.faultReported f)

/-- `raise Fault(...)` (R201): ends the instruction, and the tick boundary catches it (log 15). -/
def raiseFault {α : Type} (f : FaultRecord) (s : State) : Flow α := .ended (catchFault f s)

/-- The instruction-length fault (R202): vector 13, error 0, a true CPU fault. -/
def gpFault : FaultRecord := ⟨.hardwareFault, some 13, 0x0000, true⟩

/-- The unrouted two-byte opcode's fault (R203): no vector, error `zext_16(b2)`, no true CPU fault. -/
def notRoutedFault (b2 : Byte) : FaultRecord := ⟨.notRouted, none, b2.zeroExtend 16, false⟩

/-- `stop Unimplemented(reason)` (R206): `STOPPED(reason)` and a `Stopped` event; not in `faults`. -/
def takeStop (r : StopReason) (s : State) : State := (s.setStatus (.stopped r)).emit (.stopped r)

/-- A stop ends the instruction (R206). -/
def stopUnimplemented {α : Type} (r : StopReason) (s : State) : Flow α := .ended (takeStop r s)

/-- The reason as the spec's text writes it (R32, R64, R38, R156, R157, R160, R161). -/
def StopReason.text : StopReason → String
  | .protectedLoad => "protected-mode segment load"
  | .protectedTranslation => "protected-mode translation"
  | .size32 => "32-bit default operand/address size"
  | .c6Reg => "C6 with reg != 0"
  | .c7Reg => "C7 with reg != 0"
  | .sregRead => "8C with reg 6 or 7"
  | .sregWrite => "8E with reg 1, 6 or 7"

/-! ## Segment load and translation -/

/-- What `load_segment` makes of a descriptor in real mode (R31): selector verbatim, base
`selector << 4`, the code segment's access reset; limit kept. -/
def loadedSeg (g : Seg) (sel : Word) (old : SegDesc) : SegDesc where
  selector := sel
  base := sel.zeroExtend 32 <<< 4
  limit := old.limit
  access := if g = .cs then accCodeER else old.access

/-- `load_segment(s, sel)` (R31); in protected mode a stop that writes no field (R32). -/
def loadSegment (g : Seg) (sel : Word) (s : State) : Flow Unit :=
  if s.protectedMode then stopUnimplemented .protectedLoad s
  else .go () (s.setSeg g (loadedSeg g sel (s.seg g)))

/-- `Translate(s, off, kind)` (R62 to R64): base plus offset modulo 2^32 whatever the access kind;
in protected mode a stop. -/
def translate (g : Seg) (off : Dword) (_kind : AccessKind) (s : State) : Flow Dword :=
  if s.protectedMode then stopUnimplemented .protectedTranslation s
  else .go ((s.seg g).base + off) s

/-- The number of bytes of an access (R71). -/
def Width.size : Width → Nat
  | .byte => 1
  | .word => 2
  | .dword => 4

/-- The offset of an access's last byte from its first: `n - 1` (R65). -/
def Width.last : Width → Dword
  | .byte => 0
  | .word => 1
  | .dword => 3

/-- `PhysAddr(s, off, n, kind)`, the last-byte rule (R65). -/
def physAddr (g : Seg) (off : Dword) (w : Width) (kind : AccessKind) (s : State) : Flow Dword :=
  (translate g (off + w.last) kind s).bind fun a s => .go (a - w.last) s

/-! ## The bus: the twelve calls of R70, each recorded (log 14) -/

def busReadByte (a : Dword) (s : State) : Byte × State :=
  ((s.device.readByte a).1, (s.setDevice (s.device.readByte a).2).logBus
    (.read .byte a ((s.device.readByte a).1.zeroExtend 32)))

def busReadWord (a : Dword) (s : State) : Word × State :=
  ((s.device.readWord a).1, (s.setDevice (s.device.readWord a).2).logBus
    (.read .word a ((s.device.readWord a).1.zeroExtend 32)))

def busReadDword (a : Dword) (s : State) : Dword × State :=
  ((s.device.readDword a).1, (s.setDevice (s.device.readDword a).2).logBus
    (.read .dword a (s.device.readDword a).1))

def busWriteByte (a : Dword) (v : Byte) (s : State) : State :=
  (s.setDevice (s.device.writeByte a v)).logBus (.write .byte a (v.zeroExtend 32))

def busWriteWord (a : Dword) (v : Word) (s : State) : State :=
  (s.setDevice (s.device.writeWord a v)).logBus (.write .word a (v.zeroExtend 32))

def busWriteDword (a : Dword) (v : Dword) (s : State) : State :=
  (s.setDevice (s.device.writeDword a v)).logBus (.write .dword a v)

def portReadByte (p : Word) (s : State) : Byte × State :=
  ((s.device.portReadByte p).1, (s.setDevice (s.device.portReadByte p).2).logBus
    (.portRead .byte p ((s.device.portReadByte p).1.zeroExtend 32)))

def portReadWord (p : Word) (s : State) : Word × State :=
  ((s.device.portReadWord p).1, (s.setDevice (s.device.portReadWord p).2).logBus
    (.portRead .word p ((s.device.portReadWord p).1.zeroExtend 32)))

def portReadDword (p : Word) (s : State) : Dword × State :=
  ((s.device.portReadDword p).1, (s.setDevice (s.device.portReadDword p).2).logBus
    (.portRead .dword p (s.device.portReadDword p).1))

def portWriteByte (p : Word) (v : Byte) (s : State) : State :=
  (s.setDevice (s.device.portWriteByte p v)).logBus (.portWrite .byte p (v.zeroExtend 32))

def portWriteWord (p : Word) (v : Word) (s : State) : State :=
  (s.setDevice (s.device.portWriteWord p v)).logBus (.portWrite .word p (v.zeroExtend 32))

def portWriteDword (p : Word) (v : Dword) (s : State) : State :=
  (s.setDevice (s.device.portWriteDword p v)).logBus (.portWrite .dword p v)

/-! ## Segment-relative data access (R67): translate, then exactly one bus call -/

def segRead8 (g : Seg) (off : Dword) (s : State) : Flow Byte :=
  (physAddr g off .byte .read s).bind fun a s => .go (busReadByte a s).1 (busReadByte a s).2

def segRead16 (g : Seg) (off : Dword) (s : State) : Flow Word :=
  (physAddr g off .word .read s).bind fun a s => .go (busReadWord a s).1 (busReadWord a s).2

def segRead32 (g : Seg) (off : Dword) (s : State) : Flow Dword :=
  (physAddr g off .dword .read s).bind fun a s => .go (busReadDword a s).1 (busReadDword a s).2

def segWrite8 (g : Seg) (off : Dword) (v : Byte) (s : State) : Flow Unit :=
  (physAddr g off .byte .write s).bind fun a s => .go () (busWriteByte a v s)

def segWrite16 (g : Seg) (off : Dword) (v : Word) (s : State) : Flow Unit :=
  (physAddr g off .word .write s).bind fun a s => .go () (busWriteWord a v s)

def segWrite32 (g : Seg) (off : Dword) (v : Dword) (s : State) : Flow Unit :=
  (physAddr g off .dword .write s).bind fun a s => .go () (busWriteDword a v s)

/-- The physical address of the byte at `ip` in real mode (R33, R76). -/
def codeAddress (s : State) : Dword := (s.seg .cs).base + s.ip

/-! ## The instruction stream (R68): `ip` advances after the bus call, modulo 2^32 -/

def fetchCode8 (s : State) : Flow Byte :=
  (physAddr .cs s.ip .byte .exec s).bind fun a s =>
    .go (busReadByte a s).1 ((busReadByte a s).2.setIp (s.ip + 1))

def fetchCode16 (s : State) : Flow Word :=
  (physAddr .cs s.ip .word .exec s).bind fun a s =>
    .go (busReadWord a s).1 ((busReadWord a s).2.setIp (s.ip + 2))

def fetchCode32 (s : State) : Flow Dword :=
  (physAddr .cs s.ip .dword .exec s).bind fun a s =>
    .go (busReadDword a s).1 ((busReadDword a s).2.setIp (s.ip + 4))

/-! ## Accumulation and the length guard (R114 to R116) -/

/-- The guard's limit and the buffer's capacity (R6, R39, R116). -/
def lengthLimit : Nat := 10

/-- `ctx.len` (R39). -/
def Ctx.len (c : Ctx) : Nat := c.bytes.length

/-- The context after one more accumulated byte: stored while there is room (R114). -/
def Ctx.push (c : Ctx) (b : Byte) : Ctx :=
  if c.len < lengthLimit then { c with bytes := c.bytes ++ [b] } else c

/-- `Append(b)` (R114): store and count; at the tenth byte raise GP (R116). -/
def append (b : Byte) (s : State) : Flow Unit :=
  if (s.ctx.push b).len = lengthLimit then raiseFault gpFault (s.setCtx (s.ctx.push b))
  else .go () (s.setCtx (s.ctx.push b))

/-- `Append` of successive bytes, ending at the first raise (R115). -/
def appendAll : List Byte → State → Flow Unit
  | [], s => .go () s
  | b :: bs, s => (append b s).bind fun _ s => appendAll bs s

/-- The count of handler bytes, when `LEN_COUNTS_OPERAND_BYTES` is set (R115). -/
def countOperandBytes (bs : List Byte) (s : State) : Flow Unit :=
  if s.lenCounts then appendAll bs s else .go () s

/-- `HFetch(1)` (R115). -/
def hFetch8 (s : State) : Flow Byte :=
  (fetchCode8 s).bind fun v s => (countOperandBytes [v] s).bind fun _ s => .go v s

/-- `HFetch(2)` (R115). -/
def hFetch16 (s : State) : Flow Word :=
  (fetchCode16 s).bind fun v s =>
    (countOperandBytes [lowByte v, highByte v] s).bind fun _ s => .go v s

/-- `HFetch(4)` (R115); no baseline handler uses it. -/
def hFetch32 (s : State) : Flow Dword :=
  (fetchCode32 s).bind fun v s =>
    (countOperandBytes [v.extractLsb' 0 8, v.extractLsb' 8 8, v.extractLsb' 16 8,
      v.extractLsb' 24 8] s).bind fun _ s => .go v s

/-- `OpcodeFetch()` (R114): fetch, append under the guard, then the `Decoded` event. -/
def opcodeFetch (s : State) : Flow Byte :=
  (fetchCode8 s).bind fun b t =>
    (append b t).bind fun _ u => .go b (u.emit (.decoded (u.seg .cs).selector s.ip b))

end Sys2Proof.Machine
end

