-- ==== Sys2Proof/Machine/Flags.lean ====
section
/-! DEFINITION. The flags register (10_state R34 to R36) and the deferred interrupt enable (R41,
40_engine R110). No instruction of the opcode table computes an arithmetic flag. -/

namespace Sys2Proof.Machine

/-- The reserved always-set bit, bit 1 (R34). -/
def flagReserved : Word := 0x0002

/-- The interrupt-enable bit IF, bit 9 (R34). -/
def flagIF : Word := 0x0200

/-- The whole-word view: `flags[1]` always reads 1 (R35; log 21). -/
def State.readFlags (s : State) : Word := s.flags ||| flagReserved

/-- A whole-word write `flags <- v` stores `v | 0x0002` (R35). -/
def State.writeFlags (s : State) (v : Word) : State := { s with flags := v ||| flagReserved }

/-- `flags[9]` (R34). -/
def State.interruptEnable (s : State) : Bool := s.readFlags.getLsbD 9

/-- `flags[9] <- 1`, the only write of `flags` in the spec (R35). -/
def State.setInterruptEnable (s : State) : State := s.writeFlags (s.readFlags ||| flagIF)

/-- The deferred step of the tick prelude (R110): set IF and clear the deferred flag, if pending. -/
def applyDeferredIe (s : State) : State :=
  if s.deferredIe then s.setInterruptEnable.setDeferredIe false else s

/-- What STI does in its own tick (R185). -/
def requestInterruptEnable (s : State) : State := s.setDeferredIe true

end Sys2Proof.Machine
end

