-- ==== Sys2Proof/Machine/Operands.lean ====
section
/-! DEFINITION. Operand forms at run time (40_engine section 7): the ModRM decoder's effective
address and segment, the operand fetches of a handler, the r/m accessors, jump targets. -/

namespace Sys2Proof.Machine

/-- The base and index sum, modulo 2^16 (R101, R130, R131). -/
def baseOffset (b : EaBase) (s : State) : Word :=
  match b with
  | .bxsi => s.r16 .bx + s.r16 .si
  | .bxdi => s.r16 .bx + s.r16 .di
  | .bpsi => s.r16 .bp + s.r16 .si
  | .bpdi => s.r16 .bp + s.r16 .di
  | .si => s.r16 .si
  | .di => s.r16 .di
  | .bp => s.r16 .bp
  | .bx => s.r16 .bx

/-- `sext_16(disp8)` and `sext_16(rel8)` (R94). -/
def signExtend16 (d : Byte) : Word := d.signExtend 16

/-- The segment of a memory operand: the override if one is set, else the default (R132). -/
def operandSeg (dflt : Seg) (s : State) : Seg := s.ctx.override.getD dflt

/-- The operand a ModRM form selects in a state (R130). -/
def selectOperand (rm : RM) (s : State) : Operand :=
  match rm with
  | .reg n => .reg n
  | .mem0 b => .mem (operandSeg b.defaultSeg s) (baseOffset b s)
  | .direct d => .mem (operandSeg .ds s) d
  | .mem8 b d => .mem (operandSeg b.defaultSeg s) (baseOffset b s + signExtend16 d)
  | .mem16 b d => .mem (operandSeg b.defaultSeg s) (baseOffset b s + d)

def State.setCtxReg (s : State) (reg : Field3) : State := s.setCtx { s.ctx with reg := some reg }
def State.setOperand (s : State) (o : Operand) : State := s.setCtx { s.ctx with operand := o }

/-- The operand of a form stands in the context (R130): what `DecodeModRM` leaves there. -/
def State.selectRM (s : State) (rm : RM) : State := s.setOperand (selectOperand rm s)

/-- One write of `DecodeModRM` into the decode context (R130). -/
def State.takeNote (s : State) : CtxNote → State
  | .reg n => s.setCtxReg n
  | .operand rm => s.selectRM rm

/-- A plan carried out through the bus, one `HFetch` at a time (R115): the value that a call answers is
the value the rest of the plan goes on with. A fault or a stop of a fetch ends it. -/
def fetchPlan {α : Type} : Plan α → State → Flow α
  | .done v, s => .go v s
  | .note n p, s => fetchPlan p (s.takeNote n)
  | .byte next, s => (hFetch8 s).bind fun v t => fetchPlan (next v) t
  | .word next, s => (hFetch16 s).bind fun v t => fetchPlan (next v) t

/-- An `ea` as the translator's offset: `zext_32(ctx.ea)` (R61, R131). -/
def eaOffset (ea : Word) : Dword := ea.zeroExtend 32

/-- `ReadRM8()` (R134). -/
def readRM8 (s : State) : Flow Byte :=
  match s.ctx.operand with
  | .none => .fault .operandUnset
  | .reg n => .go (s.r8 (Reg8.ofField n)) s
  | .mem g ea => segRead8 g (eaOffset ea) s

/-- `WriteRM8(v)` (R134). -/
def writeRM8 (v : Byte) (s : State) : Flow Unit :=
  match s.ctx.operand with
  | .none => .fault .operandUnset
  | .reg n => .go () (s.setR8 (Reg8.ofField n) v)
  | .mem g ea => segWrite8 g (eaOffset ea) v s

/-- `ReadRM16()` (R134). -/
def readRM16 (s : State) : Flow Word :=
  match s.ctx.operand with
  | .none => .fault .operandUnset
  | .reg n => .go (s.r16 (Reg16.ofField n)) s
  | .mem g ea => segRead16 g (eaOffset ea) s

/-- `WriteRM16(v)` (R134). -/
def writeRM16 (v : Word) (s : State) : Flow Unit :=
  match s.ctx.operand with
  | .none => .fault .operandUnset
  | .reg n => .go () (s.setR16 (Reg16.ofField n) v)
  | .mem g ea => segWrite16 g (eaOffset ea) v s

/-- A 16-bit jump target, zero-extended into `ip` (R180 to R182). -/
def State.jumpTo (s : State) (target : Word) : State := s.setIp (target.zeroExtend 32)

/-- `zext_32(ip[15:0] + d)`: a target relative to the next instruction, modulo 2^16 (R180, R181). -/
def State.jumpRelative (s : State) (d : Word) : State := s.jumpTo (s.ip.truncate 16 + d)

end Sys2Proof.Machine
end

