-- ==== Sys2Proof/Machine/Control.lean ====
section
/-! DEFINITION. The control-transfer and interrupt-flag handlers (42_control_and_flags) and the two
entries that are no handlers: UNHANDLED and NOT_ROUTED (40_engine R120, R122). A meaning starts where the
fetches have ended (log 9). -/

namespace Sys2Proof.Machine

/-- JMP rel16 (R181): `ip` is already at the next instruction. -/
def execJmpRel16 (rel : Word) (s : State) : Host.Outcome State Fault Refusal :=
  .next (s.jumpRelative rel)

/-- JMP ptr16:16 (R182): code-segment load, then the jump. -/
def execJmpPtr16 (off sel : Word) (s : State) : Host.Outcome State Fault Refusal :=
  ((loadSegment .cs sel s).bind fun _ s => .go () (s.jumpTo off)).outcome

/-- JMP rel8 (R180): `ip` is already at the next instruction. -/
def execJmpRel8 (rel : Byte) (s : State) : Host.Outcome State Fault Refusal :=
  .next (s.jumpRelative (signExtend16 rel))

/-- STI (R185): `flags` is not written in this tick. -/
def execSti (s : State) : Host.Outcome State Fault Refusal := .next (requestInterruptEnable s)

/-- NOT_ROUTED (R122): the structured fault with error `zext_16(b2)`. -/
def execEscape (b2 : Byte) (s : State) : Host.Outcome State Fault Refusal :=
  (raiseFault (α := Unit) (notRoutedFault b2) s).outcome

/-- UNHANDLED (R120): one event with the offset of the byte, no other change. -/
def execUnhandled (b : Byte) (s : State) : Host.Outcome State Fault Refusal :=
  .next (s.emit (.unhandled (s.seg .cs).selector (s.ip - 1) b))

end Sys2Proof.Machine
end

