-- ==== Sys2Proof/Machine/DataTransfer.lean ====
section
/-! DEFINITION. The data-transfer handlers (41_data_transfer). A meaning starts where the handler's
fetches have ended: its operands are the values the bus answered, `ip` is just past the instruction
(R79; log 9). A form with an r/m operand stands in the decode context, where the accessors read it. -/

namespace Sys2Proof.Machine

/-- MOV r/m8, r8 (R152). -/
def execMovRm8R8 (rm : RM) (reg : Reg8) (s : State) : Host.Outcome State Fault Refusal :=
  (writeRM8 (s.r8 reg) (s.selectRM rm)).outcome

/-- MOV r/m16, r16 (R153). -/
def execMovRm16R16 (rm : RM) (reg : Reg16) (s : State) : Host.Outcome State Fault Refusal :=
  (writeRM16 (s.r16 reg) (s.selectRM rm)).outcome

/-- MOV r8, r/m8 (R154). -/
def execMovR8Rm8 (reg : Reg8) (rm : RM) (s : State) : Host.Outcome State Fault Refusal :=
  ((readRM8 (s.selectRM rm)).bind fun v s => .go () (s.setR8 reg v)).outcome

/-- MOV r16, r/m16 (R155). -/
def execMovR16Rm16 (reg : Reg16) (rm : RM) (s : State) : Host.Outcome State Fault Refusal :=
  ((readRM16 (s.selectRM rm)).bind fun v s => .go () (s.setR16 reg v)).outcome

/-- MOV r/m16, Sreg (R160): `reg` 6 and 7 stop. -/
def execMovRm16Sreg (rm : RM) (sreg : Field3) (s : State) : Host.Outcome State Fault Refusal :=
  match Seg.ofField sreg with
  | none => (stopUnimplemented (α := Unit) .sregRead (s.selectRM rm)).outcome
  | some g => (writeRM16 (s.seg g).selector (s.selectRM rm)).outcome

/-- The segment MOV Sreg, r/m16 may load: `reg` 1 (CS), 6 and 7 have no meaning (R161). -/
def loadableSeg (sreg : Field3) : Option Seg := if sreg = 1 then none else Seg.ofField sreg

/-- MOV Sreg, r/m16 (R161): the source is read before the segment is written. -/
def execMovSregRm16 (sreg : Field3) (rm : RM) (s : State) : Host.Outcome State Fault Refusal :=
  match loadableSeg sreg with
  | none => (stopUnimplemented (α := Unit) .sregWrite (s.selectRM rm)).outcome
  | some g => ((readRM16 (s.selectRM rm)).bind fun v s => loadSegment g v s).outcome

/-- MOV r8, imm8 (R150). -/
def execMovR8Imm8 (reg : Reg8) (imm : Byte) (s : State) : Host.Outcome State Fault Refusal :=
  .next (s.setR8 reg imm)

/-- MOV r16, imm16 (R151). -/
def execMovR16Imm16 (reg : Reg16) (imm : Word) (s : State) : Host.Outcome State Fault Refusal :=
  .next (s.setR16 reg imm)

/-- MOV r/m8, imm8 (R156): a `reg` field other than 0 stops, its immediate never fetched. -/
def execMovRm8Imm8 (rm : RM) (src : ImmForm 8) (s : State) : Host.Outcome State Fault Refusal :=
  match src with
  | .noMeaning _ => (stopUnimplemented (α := Unit) .c6Reg (s.selectRM rm)).outcome
  | .value v => (writeRM8 v (s.selectRM rm)).outcome

/-- MOV r/m16, imm16 (R157): a `reg` field other than 0 stops, its immediate never fetched. -/
def execMovRm16Imm16 (rm : RM) (src : ImmForm 16) (s : State) : Host.Outcome State Fault Refusal :=
  match src with
  | .noMeaning _ => (stopUnimplemented (α := Unit) .c7Reg (s.selectRM rm)).outcome
  | .value v => (writeRM16 v (s.selectRM rm)).outcome

end Sys2Proof.Machine
end

