-- ==== Sys2Proof/Machine/Override.lean ====
section
/-! DEFINITION. The segment-override prefixes (40_engine R125, R126). Each writes `ctx.override`; the
engine then goes on with the opcode stage of the same tick (Machine/Engine.lean). -/

namespace Sys2Proof.Machine

/-- `ctx.override <- s` (R125): the last prefix wins (R126). -/
def setOverride (g : Seg) (s : State) : State := s.setCtx { s.ctx with override := some g }

def execSegEs (s : State) : Host.Outcome State Fault Refusal := .next (setOverride .es s)
def execSegCs (s : State) : Host.Outcome State Fault Refusal := .next (setOverride .cs s)
def execSegSs (s : State) : Host.Outcome State Fault Refusal := .next (setOverride .ss s)
def execSegDs (s : State) : Host.Outcome State Fault Refusal := .next (setOverride .ds s)
def execSegFs (s : State) : Host.Outcome State Fault Refusal := .next (setOverride .fs s)
def execSegGs (s : State) : Host.Outcome State Fault Refusal := .next (setOverride .gs s)

end Sys2Proof.Machine
end

