-- ==== Sys2Proof/Machine/Dispatch.lean ====
section
/-! DEFINITION. The meaning of each instruction, one arm per row of spec/opcode_table.json. -/

namespace Sys2Proof.Machine

def exec (i : Instr) (s : State) : Host.Outcome State Fault Refusal :=
  match i with
  | .segEs => Sys2Proof.Machine.execSegEs s
  | .segCs => Sys2Proof.Machine.execSegCs s
  | .segSs => Sys2Proof.Machine.execSegSs s
  | .segDs => Sys2Proof.Machine.execSegDs s
  | .segFs => Sys2Proof.Machine.execSegFs s
  | .segGs => Sys2Proof.Machine.execSegGs s
  | .movRm8R8 rm reg => Sys2Proof.Machine.execMovRm8R8 rm reg s
  | .movRm16R16 rm reg => Sys2Proof.Machine.execMovRm16R16 rm reg s
  | .movR8Rm8 reg rm => Sys2Proof.Machine.execMovR8Rm8 reg rm s
  | .movR16Rm16 reg rm => Sys2Proof.Machine.execMovR16Rm16 reg rm s
  | .movRm16Sreg rm sreg => Sys2Proof.Machine.execMovRm16Sreg rm sreg s
  | .movSregRm16 sreg rm => Sys2Proof.Machine.execMovSregRm16 sreg rm s
  | .movR8Imm8 reg imm => Sys2Proof.Machine.execMovR8Imm8 reg imm s
  | .movR16Imm16 reg imm => Sys2Proof.Machine.execMovR16Imm16 reg imm s
  | .movRm8Imm8 rm src => Sys2Proof.Machine.execMovRm8Imm8 rm src s
  | .movRm16Imm16 rm src => Sys2Proof.Machine.execMovRm16Imm16 rm src s
  | .jmpRel16 rel => Sys2Proof.Machine.execJmpRel16 rel s
  | .jmpPtr16 off sel => Sys2Proof.Machine.execJmpPtr16 off sel s
  | .jmpRel8 rel => Sys2Proof.Machine.execJmpRel8 rel s
  | .sti => Sys2Proof.Machine.execSti s
  | .escape b2 => Sys2Proof.Machine.execEscape b2 s
  | .unhandled b => Sys2Proof.Machine.execUnhandled b s

end Sys2Proof.Machine
end

