-- ==== Sys2Proof/Machine/Engine.lean ====
section
/-! DEFINITION. The execution loop and the fetch/decode engine (40_engine R110 to R117). -/

namespace Sys2Proof.Machine

/-! ## The tick prelude (R110) -/

/-- `DeriveSizes()` (R38): 16-bit sizes, or a stop when the code segment's default size is 32-bit. -/
def deriveSizes (s : State) : Flow Unit :=
  if (s.seg .cs).access.d then stopUnimplemented .size32 s
  else .go () (s.setSizes .bits16 .bits16)

/-- `ResetContext()` (R40). -/
def resetContext (s : State) : State := s.setCtx emptyCtx

/-- START (R110, R112): sizes, context, deferred interrupt enable, in this order. -/
def prelude (s : State) : Flow Unit :=
  (deriveSizes s).bind fun _ s => .go () (applyDeferredIe (resetContext s))

/-! ## The opcode stage (R112 to R117) -/

/-- The opcode stage with room for `fuel` more bytes: `OpcodeFetch`, then `Dispatch` in the primary
table, or in the secondary table after the router (R113, R117, R121). A handler first fetches its operand
bytes (R115, R79), then has its effect. A segment override goes on with the stage in the same tick
(R125). -/
def opcodeStage : Nat → Bool → State → Host.Outcome State Fault Refusal
  | 0, _, _ => .fault .engineOverrun
  | fuel + 1, inSecondary, s =>
    match opcodeFetch s with
    | .ended t => .next t
    | .fault r => .fault r
    | .go b t =>
      match t.tables.entry inSecondary b with
      | .unhandled => exec (.unhandled b) t
      | .notRouted => exec (.escape b) t
      | .escapeRouter => opcodeStage fuel true t
      | .handler h =>
        match fetchPlan (operandPlan h b) t with
        | .ended u => .next u
        | .fault r => .fault r
        | .go i u =>
          match exec i u with
          | .next v => if i.isPrefix then opcodeStage fuel false v else .next v
          | .fault r => .fault r
          | .refused r => .refused r

/-- `Decode()` (R113). The guard ends the stage at the tenth byte (R116). -/
def runDecode (s : State) : Host.Outcome State Fault Refusal := opcodeStage lengthLimit false s

/-- `tick()` (R110): no step once stopped; the prelude; the engine for one instruction. -/
def tick (s : State) : Host.Outcome State Fault Refusal :=
  match s.status with
  | .stopped r => .fault (.stopped r)
  | .running =>
    match prelude s with
    | .go _ t => runDecode t
    | .ended t => .next t
    | .fault r => .fault r

/-! ## Placing an instruction where the next tick fetches -/

/-- `s` on the reference RAM, with bytes stored where the next tick fetches its instruction. -/
def placeCode (bs : List Byte) (s : State) : State :=
  s.setDevice (.reference (s.mem.writeBytes (codeAddress s) bs))

end Sys2Proof.Machine
end

