-- ==== Sys2Proof/Machine/Step.lean ====
section
/-! DEFINITION. One step of the machine: one tick (log 8). -/

namespace Sys2Proof.Machine

def step (s : State) : Host.Outcome State Fault Refusal := tick s

/-- `s` with a word of spec/opcode_table.json stored where `step` fetches its next instruction, every
later byte up to the longest instruction zero (logs 10 and 18). -/
def State.withFetchWord (s : State) (nbits w : Nat) : State := placeCode (tableWordBytes nbits w) s

end Sys2Proof.Machine
end

