-- ==== Sys2Proof/Machine/Run.lean ====
section
/-! DEFINITION. The host's command `run(n)` (40_engine R111, 70_reset_and_hazards R244, R245). -/

namespace Sys2Proof.Machine

/-- `run(n)`: `n` ticks, whatever faults they record; a stop ends it, for no later tick exists. -/
def run : Nat → State → Host.Outcome State Fault Refusal
  | 0, s => .next s
  | n + 1, s =>
    match s.status with
    | .stopped _ => .next s
    | .running =>
      match step s with
      | .next t => run n t
      | .fault r => .fault r
      | .refused r => .refused r

/-- A run: `init`, then `run(n)` (R245). -/
def runFromInit (p : Launch) (n : Nat) : Host.Outcome State Fault Refusal := run n (State.init p)

end Sys2Proof.Machine
end

