-- ==== Sys2Proof/Safety.lean ====
section
/-! DEFINITION. The vocabulary of the statements: when operand fetches complete and what they leave,
what counts as a clean run, frames, and the invariants. -/

namespace Sys2Proof.Machine

/-! ## Runs (70_reset_and_hazards R245, 60_exceptions R208) -/

/-- The machine can make a step (R43). -/
def State.isRunning (s : State) : Prop := s.status = .running

/-- A run that ended here raised a fault and went on (R245). -/
def State.raisedFault (s : State) : Prop := s.faults ≠ []

/-- An unhandled opcode passed (R208). -/
def State.sawUnhandled (s : State) : Prop := ∃ sel off b, Event.unhandled sel off b ∈ s.trace

/-- A clean run: running, no fault recorded, no unhandled opcode. -/
def State.clean (s : State) : Prop := s.isRunning ∧ ¬ s.raisedFault ∧ ¬ s.sawUnhandled

/-- What a tick needs to get past its prelude and its first translation: running, a 16-bit code
segment, real mode (R38, R64, R211). -/
def State.canTick (s : State) : Prop :=
  s.isRunning ∧ (s.seg .cs).access.d = false ∧ s.protectedMode = false

/-- The bus is the reference bus of R73, whose RAM is `s.mem` (R7 `BUS`; log 4). -/
def State.onReference (s : State) : Prop := s.device = .reference s.mem

/-! ## Operand fetches -/

/-- `n` bytes of fetches complete: real mode, and, when handler bytes count toward the guard, the tenth
byte is not reached (R64, R115, R116). -/
def State.canFetch (s : State) (n : Nat) : Prop :=
  s.protectedMode = false ∧ (s.lenCounts = true → s.ctx.len + n < lengthLimit)

/-- The bus calls of instruction-stream fetches of the given widths from an offset on, on the reference
bus (R68). -/
def codeReads (s : State) : List Width → Dword → List BusCall
  | [], _ => []
  | .byte :: ws, off =>
    .read .byte ((s.seg .cs).base + off) ((s.mem.read8 ((s.seg .cs).base + off)).zeroExtend 32) ::
      codeReads s ws (off + 1)
  | .word :: ws, off =>
    .read .word ((s.seg .cs).base + off) ((s.mem.read16 ((s.seg .cs).base + off)).zeroExtend 32) ::
      codeReads s ws (off + 2)
  | .dword :: ws, off =>
    .read .dword ((s.seg .cs).base + off) (s.mem.read32 ((s.seg .cs).base + off)) ::
      codeReads s ws (off + 4)

/-- Total bytes of a list of accesses. -/
def totalSize : List Width → Nat
  | [] => 0
  | w :: ws => w.size + totalSize ws

/-- The fetches of the ModRM decoder: the ModRM byte, then the displacement (R130, R133). -/
def rmFetches : RM → List Width
  | .reg _ => [.byte]
  | .mem0 _ => [.byte]
  | .direct _ => [.byte, .word]
  | .mem8 _ _ => [.byte, .byte]
  | .mem16 _ _ => [.byte, .word]

/-- The fetches of an instruction's handler, in order (R79, R115). -/
def operandFetches : Instr → List Width
  | .segEs => [] | .segCs => [] | .segSs => [] | .segDs => [] | .segFs => [] | .segGs => []
  | .movRm8R8 rm _ => rmFetches rm
  | .movRm16R16 rm _ => rmFetches rm
  | .movR8Rm8 _ rm => rmFetches rm
  | .movR16Rm16 _ rm => rmFetches rm
  | .movRm16Sreg rm _ => rmFetches rm
  | .movSregRm16 _ rm => rmFetches rm
  | .movR8Imm8 _ _ => [.byte]
  | .movR16Imm16 _ _ => [.word]
  | .movRm8Imm8 rm (.value _) => rmFetches rm ++ [.byte]
  | .movRm8Imm8 rm (.noMeaning _) => rmFetches rm
  | .movRm16Imm16 rm (.value _) => rmFetches rm ++ [.word]
  | .movRm16Imm16 rm (.noMeaning _) => rmFetches rm
  | .jmpRel16 _ => [.word]
  | .jmpPtr16 _ _ => [.word, .word]
  | .jmpRel8 _ => [.byte]
  | .sti => [] | .escape _ => [] | .unhandled _ => []

/-- The first fetches of a list, up to the one that reaches `n` bytes. -/
def fetchesUpTo : Nat → List Width → List Width
  | _, [] => []
  | n, w :: ws => if n ≤ w.size then [w] else w :: fetchesUpTo (n - w.size) ws

/-- `t` differs from `s` at most as operand fetches of widths `ws` from the reference bus make it: `ip`
past the bytes, the bus calls made, the bytes counted if they count, the ModRM fields of the context. -/
structure Fetched (ws : List Width) (s t : State) : Prop where
  ip : t.ip = s.ip + BitVec.ofNat 32 (totalSize ws)
  busLog : t.busLog = s.busLog ++ codeReads s ws s.ip
  bytes : t.ctx.bytes =
    if s.lenCounts then s.ctx.bytes ++ bytesFrom s.mem (totalSize ws) (codeAddress s)
    else s.ctx.bytes
  override : t.ctx.override = s.ctx.override
  regs : t.regs = s.regs
  segs : t.segs = s.segs
  flags : t.flags = s.flags
  cr0 : t.cr0 = s.cr0
  opsize : t.opsize = s.opsize
  addrsize : t.addrsize = s.addrsize
  deferredIe : t.deferredIe = s.deferredIe
  tables : t.tables = s.tables
  status : t.status = s.status
  faults : t.faults = s.faults
  trace : t.trace = s.trace
  device : t.device = s.device
  lenCounts : t.lenCounts = s.lenCounts

/-! ## Frames -/

/-- Flags, control register, sizes, deferred enable, tables, status, faults, trace, configuration, the
accumulated bytes and the segment override are unchanged. -/
structure ControlKept (s t : State) : Prop where
  flags : t.flags = s.flags
  cr0 : t.cr0 = s.cr0
  opsize : t.opsize = s.opsize
  addrsize : t.addrsize = s.addrsize
  deferredIe : t.deferredIe = s.deferredIe
  tables : t.tables = s.tables
  status : t.status = s.status
  faults : t.faults = s.faults
  trace : t.trace = s.trace
  lenCounts : t.lenCounts = s.lenCounts
  bytes : t.ctx.bytes = s.ctx.bytes
  override : t.ctx.override = s.ctx.override

/-- Every 16-bit register but `r` is unchanged. -/
def OnlyReg16 (r : Reg16) (s t : State) : Prop := ∀ q, q ≠ r → t.r16 q = s.r16 q

/-- Every 8-bit register but `r`, and SP, BP, SI, DI, are unchanged. -/
def OnlyReg8 (r : Reg8) (s t : State) : Prop :=
  (∀ q, q ≠ r → t.r8 q = s.r8 q) ∧
  t.r16 .sp = s.r16 .sp ∧ t.r16 .bp = s.r16 .bp ∧ t.r16 .si = s.r16 .si ∧ t.r16 .di = s.r16 .di

/-- Every general register is unchanged. -/
def RegsKept (s t : State) : Prop := ∀ q, t.r16 q = s.r16 q

/-- Every segment descriptor is unchanged. -/
def SegsKept (s t : State) : Prop := ∀ g, t.seg g = s.seg g

/-- Every byte of memory is unchanged. -/
def MemKept (s t : State) : Prop := ∀ a, t.mem.read8 a = s.mem.read8 a

/-- Every byte of memory outside the list of addresses is unchanged. -/
def MemKeptBut (as : List Dword) (s t : State) : Prop := ∀ a, a ∉ as → t.mem.read8 a = s.mem.read8 a

/-- The physical address of a memory operand in real mode (R61, R66). -/
def operandAddress (s : State) (g : Seg) (ea : Word) : Dword := (s.seg g).base + eaOffset ea

/-- The two physical addresses of a word at `a` (R73). -/
def wordAt (a : Dword) : List Dword := [a, a + 1]

/-- Whether an operand form is a memory form (R101). -/
def isMemory : RM → Bool
  | .reg _ => false
  | .mem0 _ => true | .direct _ => true | .mem8 _ _ => true | .mem16 _ _ => true

/-- What an r/m form needs to be accessed: real mode, for a memory form (R64). -/
def accessible (rm : RM) (s : State) : Prop := isMemory rm = true → s.protectedMode = false

/-- `v` now stands in the 8-bit operand `o` of `s`: in the register, all else kept; or by exactly one
device call, which on the reference bus leaves `v` at the address and every other byte alone. -/
def Stored8 (o : Operand) (v : Byte) (s t : State) : Prop :=
  match o with
  | .none => False
  | .reg n => t.r8 (Reg8.ofField n) = v ∧ OnlyReg8 (Reg8.ofField n) s t ∧ t.device = s.device ∧ MemKept s t
  | .mem g ea =>
    t.device = s.device.writeByte (operandAddress s g ea) v ∧
      (s.onReference → t.mem.read8 (operandAddress s g ea) = v) ∧
      MemKeptBut [operandAddress s g ea] s t ∧ RegsKept s t

/-- `v` now stands in the 16-bit operand `o` of `s`: in the register, all else kept; or by exactly one
device call, which on the reference bus leaves the two bytes of `v` at the address, low byte first, and
every other byte alone. -/
def Stored16 (o : Operand) (v : Word) (s t : State) : Prop :=
  match o with
  | .none => False
  | .reg n =>
    t.r16 (Reg16.ofField n) = v ∧ OnlyReg16 (Reg16.ofField n) s t ∧ t.device = s.device ∧ MemKept s t
  | .mem g ea =>
    t.device = s.device.writeWord (operandAddress s g ea) v ∧
      (s.onReference → t.mem.read8 (operandAddress s g ea) = lowByte v ∧
        t.mem.read8 (operandAddress s g ea + 1) = highByte v) ∧
      MemKeptBut (wordAt (operandAddress s g ea)) s t ∧ RegsKept s t

/-- The value of the 8-bit operand `o` in `s`, and the device after it is read (R134): the device's
answer for a memory operand. -/
def operandRead8 (o : Operand) (s : State) : Option (Byte × Device) :=
  match o with
  | .none => none
  | .reg n => some (s.r8 (Reg8.ofField n), s.device)
  | .mem g ea => some (s.device.readByte (operandAddress s g ea))

/-- The value of the 16-bit operand `o` in `s`, and the device after it is read (R134). -/
def operandRead16 (o : Operand) (s : State) : Option (Word × Device) :=
  match o with
  | .none => none
  | .reg n => some (s.r16 (Reg16.ofField n), s.device)
  | .mem g ea => some (s.device.readWord (operandAddress s g ea))

/-- The data calls that storing a byte in operand `o` makes (R79, R134). -/
def storeCalls8 (o : Operand) (v : Byte) (s : State) : List BusCall :=
  match o with
  | .none => []
  | .reg _ => []
  | .mem g ea => [.write .byte (operandAddress s g ea) (v.zeroExtend 32)]

/-- The data calls that storing a word in operand `o` makes. -/
def storeCalls16 (o : Operand) (v : Word) (s : State) : List BusCall :=
  match o with
  | .none => []
  | .reg _ => []
  | .mem g ea => [.write .word (operandAddress s g ea) (v.zeroExtend 32)]

/-- The data calls that reading the 8-bit operand `o` makes. -/
def loadCalls8 (o : Operand) (s : State) : List BusCall :=
  match o with
  | .none => []
  | .reg _ => []
  | .mem g ea => [.read .byte (operandAddress s g ea)
      ((s.device.readByte (operandAddress s g ea)).1.zeroExtend 32)]

/-- The data calls that reading the 16-bit operand `o` makes. -/
def loadCalls16 (o : Operand) (s : State) : List BusCall :=
  match o with
  | .none => []
  | .reg _ => []
  | .mem g ea => [.read .word (operandAddress s g ea)
      ((s.device.readWord (operandAddress s g ea)).1.zeroExtend 32)]

/-! ## The opcode stage -/

/-- The state in which the engine starts when the prelude goes on (R110). -/
def tickStart (s : State) : State := applyDeferredIe (resetContext (s.setSizes .bits16 .bits16))

/-- What the device answers to the fetch of the byte at `ip`. -/
def codeByte (s : State) : Byte := (s.device.readByte (codeAddress s)).1

/-- The state after an opcode-stage byte that passes the guard: one bus call, `ip` past the byte, the
byte accumulated, its `Decoded` event (R114). -/
def afterOpcodeByte (s : State) : State :=
  (((busReadByte (codeAddress s) s).2.setIp (s.ip + 1)).setCtx
    { s.ctx with bytes := s.ctx.bytes ++ [codeByte s] }).emit
    (.decoded (s.seg .cs).selector s.ip (codeByte s))

/-- The state after an opcode-stage byte that is the tenth: accumulated, no `Decoded` event, GP caught
(R116, R204). -/
def afterTenthByte (s : State) : State :=
  catchFault gpFault (((busReadByte (codeAddress s) s).2.setIp (s.ip + 1)).setCtx
    { s.ctx with bytes := s.ctx.bytes ++ [codeByte s] })

/-- The table entry that the byte at `ip` finds. -/
def entryAtIp (inSecondary : Bool) (s : State) : TableEntry := s.tables.entry inSecondary (codeByte s)

/-- The `Decoded` events of `n` opcode-stage bytes from an offset on, on the reference bus (R114, R220). -/
def decodedEvents (s : State) : Nat → Dword → List Event
  | 0, _ => []
  | n + 1, off =>
    .decoded (s.seg .cs).selector off (s.mem.read8 ((s.seg .cs).base + off)) ::
      decodedEvents s n (off + 1)

/-! ## Invariants -/

/-- The decode buffer never overflows (R39). -/
def State.ctxBounded (s : State) : Prop := s.ctx.len ≤ lengthLimit

/-- The reserved flags bit is stored set (R35). -/
def State.reservedFlagSet (s : State) : Prop := s.flags.getLsbD 1 = true

/-- Real mode with 16-bit sizes and a 16-bit code segment (R38, R215). -/
def State.realMode16 (s : State) : Prop :=
  s.protectedMode = false ∧ (s.seg .cs).access.d = false ∧ s.opsize = .bits16 ∧ s.addrsize = .bits16

/-- Every segment limit is 0xFFFF (R28, R30). -/
def State.limitsFull (s : State) : Prop := ∀ g, (s.seg g).limit = 0xFFFF

/-- The machine's invariant: canonical memory, bounded context, reserved flag set, 16-bit real mode,
full limits. -/
structure State.Inv (s : State) : Prop where
  mem : s.mem.wf = true
  ctx : s.ctxBounded
  flag : s.reservedFlagSet
  mode : s.realMode16
  limits : s.limitsFull

/-! ## Comparing runs -/

/-- A state without its observation lists (R44, R220; log 14). -/
def State.eraseObs (s : State) : State := { s with faults := [], trace := [], busLog := [] }

/-- A segment descriptor with another limit. -/
def SegDesc.withLimit (d : SegDesc) (l : Word) : SegDesc := { d with limit := l }

/-- All six limits replaced. -/
def Segs.setLimits (g : Segs) (l : Word) : Segs where
  es := g.es.withLimit l
  cs := g.cs.withLimit l
  ss := g.ss.withLimit l
  ds := g.ds.withLimit l
  fs := g.fs.withLimit l
  gs := g.gs.withLimit l

/-- A state with all its segment limits replaced (R30). -/
def State.withLimits (s : State) (l : Word) : State := { s with segs := s.segs.setLimits l }

/-- An outcome with its next state changed. -/
def mapNext (f : State → State) : Host.Outcome State Fault Refusal → Host.Outcome State Fault Refusal
  | .next s => .next (f s)
  | .fault r => .fault r
  | .refused r => .refused r

end Sys2Proof.Machine
end

