-- ==== Sys2Proof/Certificates/Slice0/Obligations.lean ====
section
/-! DEFINITION. The statements for the provers, in the order of the spec's files. Each docstring names
the rule or section it rests on, and the spec's own choice (D<n> of 92_eei_decisions) or log entry
where it rests on one. -/

open Sys2Proof Sys2Proof.Machine

/-! ## 10_state -/

/-- 10_state sections 1 and 2 (register halves, segments). The numberings are the spec's general knowledge
(G1, and R25 for the segments). Registers 8-bit 0 to 3 read the low byte and 4 to 7 the high byte of
16-bit registers 0 to 3. A half write puts the value there, leaves the sibling half and every other
16-bit register alone. -/
def Obligations.RegisterHalvesAliasTheirParent : Prop :=
  ([0, 1, 2, 3, 4, 5, 6, 7].map Reg16.ofField = [.ax, .cx, .dx, .bx, .sp, .bp, .si, .di]) ∧
  ([0, 1, 2, 3, 4, 5, 6, 7].map Reg8.ofField = [.al, .cl, .dl, .bl, .ah, .ch, .dh, .bh]) ∧
  ([0, 1, 2, 3, 4, 5, 6, 7].map Seg.ofField =
    [some .es, some .cs, some .ss, some .ds, some .fs, some .gs, none, none]) ∧
  (∀ (s : State) (n : Field3), n.toNat < 4 → s.r8 (Reg8.ofField n) = lowByte (s.r16 (Reg16.ofField n))) ∧
  (∀ (s : State) (n : Field3), 4 ≤ n.toNat →
    s.r8 (Reg8.ofField n) = highByte (s.r16 (Reg16.ofField (n - 4)))) ∧
  (∀ (s : State) (r : Reg8) (v : Byte),
    (s.setR8 r v).r8 r = v ∧ OnlyReg8 r s (s.setR8 r v) ∧
    ∀ q, q ≠ r.parent → (s.setR8 r v).r16 q = s.r16 q)

/-- 10_state section 1, the register-half invariant: after both halves of a register are written, in
either order, the register reads as their combination. -/
def Obligations.BothHalvesMakeTheRegister : Prop :=
  ∀ (s : State) (n : Field3) (lo hi : Byte), n.toNat < 4 →
    ((s.setR8 (Reg8.ofField n) lo).setR8 (Reg8.ofField (n + 4)) hi).r16 (Reg16.ofField n) =
      wordOfBytes lo hi ∧
    ((s.setR8 (Reg8.ofField (n + 4)) hi).setR8 (Reg8.ofField n) lo).r16 (Reg16.ofField n) =
      wordOfBytes lo hi

/-- R31: `load_segment` in real mode sets the selector verbatim and the base to `selector << 4`, resets
the code segment's access to the execute/read default whatever it was, keeps the limit and every other
segment's access, and touches nothing else; in protected mode it stops. -/
def Obligations.LoadSegmentInRealMode : Prop :=
  (∀ (g : Seg) (sel : Word) (s : State), s.protectedMode = false →
    ∃ t, loadSegment g sel s = .go () t ∧
      (t.seg g).selector = sel ∧ (t.seg g).base = sel.zeroExtend 32 <<< 4 ∧
      (t.seg g).limit = (s.seg g).limit ∧
      (t.seg g).access = (if g = .cs then accCodeER else (s.seg g).access) ∧
      (∀ q, q ≠ g → t.seg q = s.seg q) ∧ t = { s with segs := t.segs }) ∧
  (∀ (g : Seg) (sel : Word) (s : State), s.protectedMode = true →
    loadSegment g sel s = .ended (takeStop .protectedLoad s))

/-- R32: in protected mode `load_segment` takes the stop "protected-mode segment load" and writes no
field of any segment. -/
def Obligations.LoadSegmentInProtectedModeStops : Prop :=
  ∀ (g : Seg) (sel : Word) (s : State), s.protectedMode = true →
    ∃ t, loadSegment g sel s = .ended t ∧ t.status = .stopped .protectedLoad ∧
      StopReason.protectedLoad.text = "protected-mode segment load" ∧ t.segs = s.segs ∧
      t.trace = s.trace ++ [.stopped .protectedLoad] ∧ t.faults = s.faults

/-! ## 20_memory -/

/-- R64: in protected mode every access primitive stops with "protected-mode translation", with no bus
call, device, `ip` and registers as they were. -/
def Obligations.ProtectedModeTranslationStops : Prop :=
  ∀ (s : State), s.protectedMode = true →
    ∃ t, t.status = .stopped .protectedTranslation ∧
      StopReason.protectedTranslation.text = "protected-mode translation" ∧
      t.trace = s.trace ++ [.stopped .protectedTranslation] ∧ t.faults = s.faults ∧
      t.busLog = s.busLog ∧ t.device = s.device ∧ t.ip = s.ip ∧ t.regs = s.regs ∧
      (∀ g off k, translate g off k s = .ended t) ∧
      (∀ g off, segRead8 g off s = .ended t) ∧ (∀ g off, segRead16 g off s = .ended t) ∧
      (∀ g off, segRead32 g off s = .ended t) ∧ (∀ g off v, segWrite8 g off v s = .ended t) ∧
      (∀ g off v, segWrite16 g off v s = .ended t) ∧ (∀ g off v, segWrite32 g off v s = .ended t) ∧
      fetchCode8 s = .ended t ∧ fetchCode16 s = .ended t ∧ fetchCode32 s = .ended t

/-- 20_memory sections 2 and 3: in real mode the last-byte rule gives base plus offset modulo 2^32 for
every width and access kind (the widths are the spec's own choice D2; no limit or access check, D26). -/
def Obligations.RealModeAddressIsBasePlusOffset : Prop :=
  ∀ (s : State) (g : Seg) (off : Dword) (w : Width) (k : AccessKind), s.protectedMode = false →
    translate g off k s = .go ((s.seg g).base + off) s ∧
    physAddr g off w k s = .go ((s.seg g).base + off) s

/-- R67 and R71: when the translator answers address `a` for the last-byte rule, each data primitive
makes exactly one bus call, of its own width, at `a`: a read answers what the device answers; nothing
changes but the device, as that one call makes it, and the record of calls. On any bus (R69). -/
def Obligations.DataAccessIsOneBusCall : Prop :=
  ∀ (s : State) (g : Seg) (off a : Dword),
    (physAddr g off .byte .read s = .go a s →
      segRead8 g off s = .go (s.device.readByte a).1 { s with
        device := (s.device.readByte a).2,
        busLog := s.busLog ++ [.read .byte a ((s.device.readByte a).1.zeroExtend 32)] }) ∧
    (physAddr g off .word .read s = .go a s →
      segRead16 g off s = .go (s.device.readWord a).1 { s with
        device := (s.device.readWord a).2,
        busLog := s.busLog ++ [.read .word a ((s.device.readWord a).1.zeroExtend 32)] }) ∧
    (physAddr g off .dword .read s = .go a s →
      segRead32 g off s = .go (s.device.readDword a).1 { s with
        device := (s.device.readDword a).2,
        busLog := s.busLog ++ [.read .dword a (s.device.readDword a).1] }) ∧
    (∀ v, physAddr g off .byte .write s = .go a s →
      segWrite8 g off v s = .go () { s with
        device := s.device.writeByte a v,
        busLog := s.busLog ++ [.write .byte a (v.zeroExtend 32)] }) ∧
    (∀ v, physAddr g off .word .write s = .go a s →
      segWrite16 g off v s = .go () { s with
        device := s.device.writeWord a v,
        busLog := s.busLog ++ [.write .word a (v.zeroExtend 32)] }) ∧
    (∀ v, physAddr g off .dword .write s = .go a s →
      segWrite32 g off v s = .go () { s with
        device := s.device.writeDword a v, busLog := s.busLog ++ [.write .dword a v] })

/-- 20_memory section 3, the instruction-stream primitive (the cursor is `ip`, C6; 32-bit advance, D1):
one bus call at `(CS, ip)`, whose answer is the value, then `ip` past the bytes, nothing else. On any bus. -/
def Obligations.CodeFetchAdvancesIp : Prop :=
  ∀ (s : State) (a : Dword), s.protectedMode = false → a = (s.seg .cs).base + s.ip →
    fetchCode8 s = .go (s.device.readByte a).1 { s with
      ip := s.ip + 1, device := (s.device.readByte a).2,
      busLog := s.busLog ++ [.read .byte a ((s.device.readByte a).1.zeroExtend 32)] } ∧
    fetchCode16 s = .go (s.device.readWord a).1 { s with
      ip := s.ip + 2, device := (s.device.readWord a).2,
      busLog := s.busLog ++ [.read .word a ((s.device.readWord a).1.zeroExtend 32)] } ∧
    fetchCode32 s = .go (s.device.readDword a).1 { s with
      ip := s.ip + 4, device := (s.device.readDword a).2,
      busLog := s.busLog ++ [.read .dword a (s.device.readDword a).1] }

/-- 20_memory section 5 (little-endian reference RAM, the spec's own choice D4): a word write puts its
bytes at two successive addresses modulo 2^32, low byte first, a doubleword write at four, least
significant first; either leaves every other byte alone and reads back, and a read of either width is
made of those bytes. -/
def Obligations.DwordWriteIsLittleEndian : Prop :=
  (∀ (m : Memory) (a : Dword),
    lowByte (m.read16 a) = m.read8 a ∧ highByte (m.read16 a) = m.read8 (a + 1) ∧
    (m.read32 a).extractLsb' 0 8 = m.read8 a ∧ (m.read32 a).extractLsb' 8 8 = m.read8 (a + 1) ∧
    (m.read32 a).extractLsb' 16 8 = m.read8 (a + 2) ∧
    (m.read32 a).extractLsb' 24 8 = m.read8 (a + 3)) ∧
  (∀ (m : Memory) (a : Dword) (v : Word), m.wf = true →
    (m.write16 a v).read8 a = lowByte v ∧ (m.write16 a v).read8 (a + 1) = highByte v ∧
    (m.write16 a v).read16 a = v ∧
    ∀ b, b ∉ [a, a + 1] → (m.write16 a v).read8 b = m.read8 b) ∧
  (∀ (m : Memory) (a : Dword) (v : Dword), m.wf = true →
    (m.write32 a v).read8 a = v.extractLsb' 0 8 ∧
    (m.write32 a v).read8 (a + 1) = v.extractLsb' 8 8 ∧
    (m.write32 a v).read8 (a + 2) = v.extractLsb' 16 8 ∧
    (m.write32 a v).read8 (a + 3) = v.extractLsb' 24 8 ∧
    (m.write32 a v).read32 a = v ∧
    ∀ b, b ∉ [a, a + 1, a + 2, a + 3] → (m.write32 a v).read8 b = m.read8 b)

/-- Canonical memory, the form that the model gives the RAM of 20_memory section 5 (log 3): two canonical
memories that read alike at every address are equal data. -/
def Obligations.CanonicalMemoriesReadingAlikeAreEqual : Prop :=
  ∀ m m' : Memory, m.wf = true → m'.wf = true → (∀ a : Dword, m.read8 a = m'.read8 a) → m = m'

/-- 20_memory section 5, the ports of the reference bus (D5, log 4): on it a port read answers 0 and a port
write has no effect. On any bus a port operation is one call, with the device's answer. -/
def Obligations.ReferencePortsReadZero : Prop :=
  (∀ (s : State) (p : Word), s.onReference →
    (portReadByte p s).1 = 0 ∧ (portReadWord p s).1 = 0 ∧ (portReadDword p s).1 = 0 ∧
    (portReadByte p s).2 = { s with busLog := s.busLog ++ [.portRead .byte p 0] } ∧
    (portReadWord p s).2 = { s with busLog := s.busLog ++ [.portRead .word p 0] } ∧
    (portReadDword p s).2 = { s with busLog := s.busLog ++ [.portRead .dword p 0] } ∧
    (∀ v, portWriteByte p v s =
      { s with busLog := s.busLog ++ [.portWrite .byte p (v.zeroExtend 32)] }) ∧
    (∀ v, portWriteWord p v s =
      { s with busLog := s.busLog ++ [.portWrite .word p (v.zeroExtend 32)] }) ∧
    (∀ v, portWriteDword p v s = { s with busLog := s.busLog ++ [.portWrite .dword p v] })) ∧
  (∀ (s : State) (p : Word),
    portReadByte p s = ((s.device.portReadByte p).1, { s with
      device := (s.device.portReadByte p).2,
      busLog := s.busLog ++ [.portRead .byte p ((s.device.portReadByte p).1.zeroExtend 32)] }) ∧
    portReadWord p s = ((s.device.portReadWord p).1, { s with
      device := (s.device.portReadWord p).2,
      busLog := s.busLog ++ [.portRead .word p ((s.device.portReadWord p).1.zeroExtend 32)] }) ∧
    portReadDword p s = ((s.device.portReadDword p).1, { s with
      device := (s.device.portReadDword p).2,
      busLog := s.busLog ++ [.portRead .dword p (s.device.portReadDword p).1] }) ∧
    (∀ v, portWriteByte p v s = { s with
      device := s.device.portWriteByte p v,
      busLog := s.busLog ++ [.portWrite .byte p (v.zeroExtend 32)] }) ∧
    (∀ v, portWriteWord p v s = { s with
      device := s.device.portWriteWord p v,
      busLog := s.busLog ++ [.portWrite .word p (v.zeroExtend 32)] }) ∧
    (∀ v, portWriteDword p v s = { s with
      device := s.device.portWriteDword p v, busLog := s.busLog ++ [.portWrite .dword p v] }))

/-- 20_memory section 10 (self-modifying code), on the reference bus: a byte stored where the next opcode
byte is fetched is the byte the next opcode fetch reads. -/
def Obligations.StoredCodeByteIsFetched : Prop :=
  ∀ (s : State) (v : Byte), s.onReference → s.protectedMode = false → s.mem.wf = true →
    s.ctx.len + 1 < lengthLimit →
    ∃ t, opcodeFetch (busWriteByte (codeAddress s) v s) = .go v t

/-! ## 30_encoding -/

/-- 30_encoding sections 1 to 4 (opcode values are the spec's own choice D19): decoding the encoding of
any well-formed instruction, whatever follows it, gives that instruction and what follows. -/
def Obligations.DecodeOfEncode : Prop :=
  ∀ (i : Instr) (rest : List Byte), i.wellFormed = true →
    decode baselineTables (encode i ++ rest) = .ok (i, rest)

/-- 30_encoding sections 1 to 4 (D19): whatever the baseline decoder reads is well formed, and its bytes
are the encoding of what it read: no byte sequence has two spellings of one instruction. -/
def Obligations.EncodeOfDecode : Prop :=
  ∀ (bs : List Byte) (i : Instr) (rest : List Byte), decode baselineTables bs = .ok (i, rest) →
    i.wellFormed = true ∧ bs = encode i ++ rest

/-- 30_encoding section 6: no byte sequence is rejected but for ending early (D14, D21): six bytes
always hold an instruction. -/
def Obligations.SixBytesAlwaysDecode : Prop :=
  ∀ bs : List Byte, 6 ≤ bs.length → ∃ i rest, decode baselineTables bs = .ok (i, rest)

/-- 30_encoding section 4: words written out from the spec's encodings decode to their instructions
(opcode values D19). -/
def Obligations.SpecWordsDecode : Prop :=
  decode baselineTables [0xB0, 0x42] = .ok (.movR8Imm8 .al 0x42, []) ∧
  decode baselineTables [0xBB, 0x00, 0x20] = .ok (.movR16Imm16 .bx 0x2000, []) ∧
  decode baselineTables [0x8B, 0x0E, 0x34, 0x12] = .ok (.movR16Rm16 .cx (.direct 0x1234), []) ∧
  decode baselineTables [0xC7, 0x47, 0xFE, 0x34, 0x12] =
    .ok (.movRm16Imm16 (.mem8 .bx 0xFE) (.value 0x1234), []) ∧
  decode baselineTables [0x8E, 0xDB] = .ok (.movSregRm16 3 (.reg 3), []) ∧
  decode baselineTables [0xEA, 0x00, 0x01, 0x00, 0x10] = .ok (.jmpPtr16 0x0100 0x1000, []) ∧
  decode baselineTables [0x0F, 0x05] = .ok (.escape 0x05, []) ∧
  decode baselineTables [0x90] = .ok (.unhandled 0x90, []) ∧
  decode baselineTables [0x26, 0x8B] = .ok (.segEs, [0x8B])

/-- 30_encoding section 2 (addressing table; conflict C1; ModRM bit positions G3): which form each mod
and rm is, which base and index each rm is, and that the direct form takes two more bytes whatever the
`reg` field. -/
def Obligations.ModRMFormsAndLengths : Prop :=
  (∀ (reg rm : Field3) (lo hi : Byte) (rest : List Byte),
    decodeModRM (modrmByte 3 reg rm :: lo :: hi :: rest) = some ((.reg rm, reg), lo :: hi :: rest) ∧
    decodeModRM (modrmByte 0 reg 6 :: lo :: hi :: rest) =
      some ((.direct (wordOfBytes lo hi), reg), rest)) ∧
  (∀ (reg rm : Field3) (base : EaBase) (lo hi : Byte) (rest : List Byte),
    (rm, base) ∈ [((0 : Field3), EaBase.bxsi), (1, .bxdi), (2, .bpsi), (3, .bpdi), (4, .si), (5, .di),
      (6, .bp), (7, .bx)] →
    (rm ≠ 6 → decodeModRM (modrmByte 0 reg rm :: lo :: hi :: rest) =
      some ((.mem0 base, reg), lo :: hi :: rest)) ∧
    decodeModRM (modrmByte 1 reg rm :: lo :: hi :: rest) = some ((.mem8 base lo, reg), hi :: rest) ∧
    decodeModRM (modrmByte 2 reg rm :: lo :: hi :: rest) =
      some ((.mem16 base (wordOfBytes lo hi), reg), rest))

/-- 30_encoding section 4, the rest of the map (D19): 0x0F is the router, a byte that no baseline
descriptor names is unhandled, any other has a handler, every secondary entry is not routed. -/
def Obligations.BaselineOpcodeMap : Prop :=
  (baselineTables.entry false 0x0F = .escapeRouter) ∧
  (∀ b : Byte, mappedOpcodes.contains b = false → baselineTables.entry false b = .unhandled) ∧
  (∀ b : Byte, mappedOpcodes.contains b = true → b ≠ 0x0F →
    ∃ h, baselineTables.entry false b = .handler h) ∧
  (∀ b : Byte, baselineTables.entry true b = .notRouted)

/-! ## 40_engine -/

/-- 40_engine section 3, `BuildTables` (D14, D40, D41): the tables computed slot by slot are those of
the install loop, for every descriptor list. -/
def Obligations.BuildTablesIsTheInstallLoop : Prop :=
  ∀ ds : List Descriptor, buildTables ds = buildTablesLoop ds

/-- R124: no rule reads the 32-bit handler slot: descriptors that differ only there build the same
tables, and an installed entry is the 16-bit handler of a descriptor. -/
def Obligations.Handler32IsNeverRead : Prop :=
  ∀ (ds : List Descriptor) (f : Descriptor → Option Handler),
    buildTables (ds.map fun d => { d with handler32 := f d }) = buildTables ds ∧
    ∀ sec b h, (buildTables ds).entry sec b = .handler h → ∃ d ∈ ds, d.opcode = b ∧ h = d.handler16

/-- R250: STI completes in its own tick without writing flags or anything but the deferred flag; the
next tick's prelude sets IF and clears the deferred flag before any opcode byte is fetched. -/
def Obligations.StiTakesEffectOneTickLater : Prop :=
  (∀ s : State, ∃ t, exec .sti s = .next t ∧ t.deferredIe = true ∧ t.flags = s.flags ∧
    t = { s with deferredIe := true }) ∧
  (∀ s : State, (s.seg .cs).access.d = false → s.deferredIe = true →
    ∃ t, prelude s = .go () t ∧ t.interruptEnable = true ∧ t.deferredIe = false ∧
      t.ip = s.ip ∧ t.busLog = s.busLog ∧ t.device = s.device ∧ t.ctx.bytes = [])

/-- 40_engine section 1 and 10_state section 4 (D10, D28): `flags` changes only in the prelude, by
setting IF, and only when the deferred flag is pending; no instruction writes it, whatever it ends in. -/
def Obligations.FlagsChangeOnlyByTheDeferredEnable : Prop :=
  (∀ i s t, exec i s = .next t → t.flags = s.flags) ∧
  (∀ s t, (s.seg .cs).access.d = false → step s = .next t →
    t.flags = if s.deferredIe then s.flags ||| flagReserved ||| flagIF else s.flags)

/-- 10_state section 6 (D18, D28): with a 32-bit default size the tick stops before anything else. -/
def Obligations.DefaultSize32StopsTheTick : Prop :=
  ∀ s : State, s.isRunning → (s.seg .cs).access.d = true →
    step s = .next { s with status := .stopped .size32, trace := s.trace ++ [.stopped .size32] }

/-- 60_exceptions section 8 with 20_memory section 2: a tick in protected mode stops at its first
translation, with `ip`, device, registers and segments as they were, no bus call and no byte
accumulated. -/
def Obligations.ProtectedModeTickStopsAtTheFetch : Prop :=
  ∀ s : State, s.isRunning → (s.seg .cs).access.d = false → s.protectedMode = true →
    ∃ t, step s = .next t ∧ t.status = .stopped .protectedTranslation ∧ t.ip = s.ip ∧
      t.device = s.device ∧ t.regs = s.regs ∧ t.segs = s.segs ∧ t.busLog = s.busLog ∧
      t.faults = s.faults ∧ t.ctx.len = 0

/-- 40_engine sections 1 to 3 (log 8): a tick is the opcode stage run from the prelude's state. On the
reference bus, when the bytes at `ip` decode to an instruction and its operand bytes fit, the stage fetches
those bytes after the opcode byte and runs exactly `exec` of it; after a segment override it goes on in
the same tick. The router goes on in the secondary table; the tenth byte ends the tick. On any bus the
instruction is the one read from the bytes the device answers, fetch by fetch. -/
def Obligations.StepRunsTheDecodedInstruction : Prop :=
  (∀ s : State, s.canTick → step s = opcodeStage lengthLimit false (tickStart s)) ∧
  (∀ (k : Nat) (sec : Bool) (s : State) (i : Instr) (rest : List Byte),
    s.onReference → s.protectedMode = false → s.ctx.len + 1 < lengthLimit →
    entryAtIp sec s ≠ .escapeRouter →
    decodeFrom s.tables sec (bytesFrom s.mem 6 (codeAddress s)) = .ok (i, rest) →
    (afterOpcodeByte s).canFetch i.operandBytes →
    ∃ t, Fetched (operandFetches i) (afterOpcodeByte s) t ∧
      (i.isPrefix = false → opcodeStage (k + 1) sec s = exec i t) ∧
      (i.isPrefix = true → ∃ u, exec i t = .next u ∧
        opcodeStage (k + 1) sec s = opcodeStage k false u)) ∧
  (∀ (k : Nat) (sec : Bool) (s : State),
    s.protectedMode = false → s.ctx.len + 1 < lengthLimit → entryAtIp sec s = .escapeRouter →
    opcodeStage (k + 1) sec s = opcodeStage k true (afterOpcodeByte s)) ∧
  (∀ (k : Nat) (sec : Bool) (s : State),
    s.protectedMode = false → s.ctx.len + 1 = lengthLimit →
    opcodeStage (k + 1) sec s = .next (afterTenthByte s)) ∧
  (∀ (k : Nat) (sec : Bool) (s t : State) (h : Handler) (i : Instr),
    s.protectedMode = false → s.ctx.len + 1 < lengthLimit → entryAtIp sec s = .handler h →
    fetchPlan (operandPlan h (codeByte s)) (afterOpcodeByte s) = .go i t →
    (i.isPrefix = false → opcodeStage (k + 1) sec s = exec i t) ∧
    (i.isPrefix = true → ∃ u, exec i t = .next u ∧
      opcodeStage (k + 1) sec s = opcodeStage k false u))

/-- 40_engine section 2 (D12, D13, D15), the length guard, on the reference bus: when the nine bytes at
`ip` are segment overrides, the tenth byte, whatever it is, is accumulated and raises GP undispatched;
`ip` is ten bytes on, one fault is recorded, the trace grows by the nine `Decoded` events and the report,
registers, segments, memory, control register and tables are as they were, `flags` is what the prelude
made it, and the machine runs on. -/
def Obligations.TenthOpcodeByteRaisesGP : Prop :=
  ∀ s : State, s.onReference → s.canTick →
    (∀ k, k < 9 → ∃ g, s.tables.entry false (s.mem.read8 (codeAddress s + BitVec.ofNat 32 k)) =
      .handler (.override g)) →
    ∃ t, step s = .next t ∧ t.ip = s.ip + 10 ∧ t.faults = s.faults ++ [gpFault] ∧
      t.trace = s.trace ++ decodedEvents s 9 s.ip ++ [.faultReported gpFault] ∧
      t.ctx.bytes = bytesFrom s.mem 10 (codeAddress s) ∧ t.regs = s.regs ∧ t.segs = s.segs ∧
      t.device = s.device ∧ t.cr0 = s.cr0 ∧ t.tables = s.tables ∧ t.flags = (tickStart s).flags ∧
      t.deferredIe = false ∧ t.status = .running

/-- R120: the diagnostic handler emits its notice, with the offset of the opcode byte, and does nothing
else. On the reference bus a tick on `p` segment overrides and an unhandled byte ends `p + 1` bytes on; its
trace grows by the `p + 1` `Decoded` events of those bytes and that one notice, with no fault and no
register, segment or memory changed; the next tick's context reset discards the override. -/
def Obligations.UnhandledOpcodeIsInert : Prop :=
  (∀ (b : Byte) (s : State), exec (.unhandled b) s = .next { s with
    trace := s.trace ++ [.unhandled (s.seg .cs).selector (s.ip - 1) b] }) ∧
  (∀ (s : State) (p : Nat), s.onReference → s.canTick → p ≤ 8 →
    (∀ k, k < p → ∃ g, s.tables.entry false (s.mem.read8 (codeAddress s + BitVec.ofNat 32 k)) =
      .handler (.override g)) →
    s.tables.entry false (s.mem.read8 (codeAddress s + BitVec.ofNat 32 p)) = .unhandled →
    ∃ t, step s = .next t ∧ t.ip = s.ip + BitVec.ofNat 32 (p + 1) ∧ t.regs = s.regs ∧
      t.segs = s.segs ∧ t.device = s.device ∧ t.cr0 = s.cr0 ∧ t.flags = (tickStart s).flags ∧
      t.faults = s.faults ∧ t.status = .running ∧
      t.trace = s.trace ++ decodedEvents s (p + 1) s.ip ++
        [.unhandled (s.seg .cs).selector (s.ip + BitVec.ofNat 32 p)
          (s.mem.read8 (codeAddress s + BitVec.ofNat 32 p))] ∧
      (tickStart t).ctx.override = none)

/-- 40_engine section 4, NOT_ROUTED (D14): the instruction records the fault with error `zext_16(b2)`
and changes nothing else; on the reference bus a tick on the router's byte and an unrouted second byte
ends two bytes on. -/
def Obligations.UnroutedTwoByteOpcodeFaults : Prop :=
  (∀ (b2 : Byte) (s : State), exec (.escape b2) s = .next { s with
    faults := s.faults ++ [⟨.notRouted, none, b2.zeroExtend 16, false⟩],
    trace := s.trace ++ [.faultReported ⟨.notRouted, none, b2.zeroExtend 16, false⟩] }) ∧
  (∀ s : State, s.onReference → s.canTick → entryAtIp false s = .escapeRouter →
    s.tables.entry true (s.mem.read8 (codeAddress s + 1)) = .notRouted →
    ∃ t, step s = .next t ∧ t.ip = s.ip + 2 ∧ t.regs = s.regs ∧ t.segs = s.segs ∧
      t.device = s.device ∧ t.status = .running ∧
      t.faults = s.faults ++ [⟨.notRouted, none,
        (s.mem.read8 (codeAddress s + 1)).zeroExtend 16, false⟩])

/-- 40_engine section 6 (D20): each of the six segment-override prefixes writes `ctx.override` with its
segment and nothing else, so of two in a row the last wins. -/
def Obligations.SegmentOverrideSetsTheOverride : Prop :=
  ∀ s : State,
    exec .segEs s = .next { s with ctx := { s.ctx with override := some .es } } ∧
    exec .segCs s = .next { s with ctx := { s.ctx with override := some .cs } } ∧
    exec .segSs s = .next { s with ctx := { s.ctx with override := some .ss } } ∧
    exec .segDs s = .next { s with ctx := { s.ctx with override := some .ds } } ∧
    exec .segFs s = .next { s with ctx := { s.ctx with override := some .fs } } ∧
    exec .segGs s = .next { s with ctx := { s.ctx with override := some .gs } } ∧
    ∀ g h : Seg, ∃ t, exec (overrideInstr g) s = .next t ∧
      exec (overrideInstr h) t = .next { s with ctx := { s.ctx with override := some h } }

/-- 40_engine section 7 and 30_encoding section 2 (16-bit sums D3; override D20): the effective address
and segment of every memory form, with and without an override. -/
def Obligations.EffectiveAddressTable : Prop :=
  ∀ (s : State) (d8 : Byte) (d16 : Word),
    (∀ n, selectOperand (.reg n) s = .reg n) ∧
    selectOperand (.direct d16) s = .mem (s.ctx.override.getD .ds) d16 ∧
    (∀ (b : EaBase) (sum : Word) (dflt : Seg),
      (b, sum, dflt) ∈
        [(EaBase.bxsi, s.r16 .bx + s.r16 .si, Seg.ds), (.bxdi, s.r16 .bx + s.r16 .di, .ds),
         (.bpsi, s.r16 .bp + s.r16 .si, .ss), (.bpdi, s.r16 .bp + s.r16 .di, .ss),
         (.si, s.r16 .si, .ds), (.di, s.r16 .di, .ds), (.bp, s.r16 .bp, .ss), (.bx, s.r16 .bx, .ds)] →
      (b ≠ .bp → selectOperand (.mem0 b) s = .mem (s.ctx.override.getD dflt) sum) ∧
      selectOperand (.mem8 b d8) s = .mem (s.ctx.override.getD dflt) (sum + d8.signExtend 16) ∧
      selectOperand (.mem16 b d16) s = .mem (s.ctx.override.getD dflt) (sum + d16))

/-- 40_engine section 7 (D31), on the reference bus: when its fetches complete, the ModRM decoder reads the
form and `reg` field that the bytes at `ip` encode, leaves the `reg` field and the selected operand in the
context, has fetched the ModRM byte and the displacement, and has made no data access and no other
change; the rest of the handler goes on from there. -/
def Obligations.ModRMDecoderOnlyFetches : Prop :=
  ∀ (rm : RM) (reg : Field3) (s : State) (rest : List Byte), s.onReference → s.canFetch rm.size →
    decodeModRM (bytesFrom s.mem 3 (codeAddress s)) = some ((rm, reg), rest) →
    ∃ t, Fetched (rmFetches rm) s t ∧ t.ctx.reg = some reg ∧ t.ctx.operand = selectOperand rm s ∧
      ∀ (k : RM → Field3 → Plan Instr), fetchPlan (modRMPlan k) s = fetchPlan (k rm reg) t

/-! ## 41_data_transfer (the list of handlers is the spec's own choice D19)

`exec` starts where the handler's operand fetches have ended, `ip` just past the instruction (R79; log 9);
`StepRunsTheDecodedInstruction` says that a step brings it there. So no statement about `exec` needs its
fetches to complete, and `ip` stands where they left it. The statements hold on any bus: what a memory
operand reads is what the device answers. -/

/-- 41_data_transfer section 1, MOV r8, imm8. -/
def Obligations.MovR8Imm8Result : Prop :=
  ∀ (reg : Reg8) (imm : Byte) (s : State),
    ∃ t, exec (.movR8Imm8 reg imm) s = .next t ∧ t.r8 reg = imm ∧ OnlyReg8 reg s t ∧
      SegsKept s t ∧ t.device = s.device ∧ MemKept s t ∧ ControlKept s t ∧ t.ip = s.ip ∧
      t.busLog = s.busLog

/-- 41_data_transfer section 1, MOV r16, imm16. -/
def Obligations.MovR16Imm16Result : Prop :=
  ∀ (reg : Reg16) (imm : Word) (s : State),
    ∃ t, exec (.movR16Imm16 reg imm) s = .next t ∧ t.r16 reg = imm ∧ OnlyReg16 reg s t ∧
      SegsKept s t ∧ t.device = s.device ∧ MemKept s t ∧ ControlKept s t ∧ t.ip = s.ip ∧
      t.busLog = s.busLog

/-- 41_data_transfer section 2, MOV r/m8, r8, register and memory forms. -/
def Obligations.MovRm8R8Result : Prop :=
  ∀ (rm : RM) (reg : Reg8) (s : State), accessible rm s → s.mem.wf = true →
    ∃ t, exec (.movRm8R8 rm reg) s = .next t ∧ Stored8 (selectOperand rm s) (s.r8 reg) s t ∧
      SegsKept s t ∧ ControlKept s t ∧ t.ip = s.ip

/-- 41_data_transfer section 2, MOV r/m16, r16, register and memory forms. -/
def Obligations.MovRm16R16Result : Prop :=
  ∀ (rm : RM) (reg : Reg16) (s : State), accessible rm s → s.mem.wf = true →
    ∃ t, exec (.movRm16R16 rm reg) s = .next t ∧ Stored16 (selectOperand rm s) (s.r16 reg) s t ∧
      SegsKept s t ∧ ControlKept s t ∧ t.ip = s.ip

/-- 41_data_transfer section 2, MOV r8, r/m8, register and memory forms: the address uses the registers
as they were. -/
def Obligations.MovR8Rm8Result : Prop :=
  ∀ (reg : Reg8) (rm : RM) (s : State), accessible rm s →
    ∃ t, exec (.movR8Rm8 reg rm) s = .next t ∧
      operandRead8 (selectOperand rm s) s = some (t.r8 reg, t.device) ∧ OnlyReg8 reg s t ∧
      SegsKept s t ∧ MemKept s t ∧ ControlKept s t ∧ t.ip = s.ip

/-- 41_data_transfer section 2, MOV r16, r/m16, register and memory forms: the address uses the
registers as they were, the destination among them. -/
def Obligations.MovR16Rm16Result : Prop :=
  ∀ (reg : Reg16) (rm : RM) (s : State), accessible rm s →
    ∃ t, exec (.movR16Rm16 reg rm) s = .next t ∧
      operandRead16 (selectOperand rm s) s = some (t.r16 reg, t.device) ∧ OnlyReg16 reg s t ∧
      SegsKept s t ∧ MemKept s t ∧ ControlKept s t ∧ t.ip = s.ip

/-- 41_data_transfer section 2, MOV r/m8, imm8, register and memory forms. -/
def Obligations.MovRm8Imm8Result : Prop :=
  ∀ (rm : RM) (imm : Byte) (s : State), accessible rm s → s.mem.wf = true →
    ∃ t, exec (.movRm8Imm8 rm (.value imm)) s = .next t ∧ Stored8 (selectOperand rm s) imm s t ∧
      SegsKept s t ∧ ControlKept s t ∧ t.ip = s.ip

/-- 41_data_transfer section 2, MOV r/m16, imm16, register and memory forms. -/
def Obligations.MovRm16Imm16Result : Prop :=
  ∀ (rm : RM) (imm : Word) (s : State), accessible rm s → s.mem.wf = true →
    ∃ t, exec (.movRm16Imm16 rm (.value imm)) s = .next t ∧ Stored16 (selectOperand rm s) imm s t ∧
      SegsKept s t ∧ ControlKept s t ∧ t.ip = s.ip

/-- 41_data_transfer section 3, MOV r/m16, Sreg, for every `reg` field that names a segment, CS among
them (the numbers of 10_state section 2); only the selector is read. -/
def Obligations.MovRm16SregResult : Prop :=
  ∀ (rm : RM) (sreg : Field3) (g : Seg) (s : State), accessible rm s → s.mem.wf = true →
    (sreg, g) ∈ [((0 : Field3), Seg.es), (1, .cs), (2, .ss), (3, .ds), (4, .fs), (5, .gs)] →
    ∃ t, exec (.movRm16Sreg rm sreg) s = .next t ∧
      Stored16 (selectOperand rm s) (s.seg g).selector s t ∧
      SegsKept s t ∧ ControlKept s t ∧ t.ip = s.ip

/-- 41_data_transfer section 3, MOV Sreg, r/m16, for every `reg` field that names a segment but CS (the
numbers of 10_state section 2): the source is read through the old segments; selector and base are
loaded, limit and access kept. -/
def Obligations.MovSregRm16Result : Prop :=
  ∀ (rm : RM) (sreg : Field3) (g : Seg) (s : State), s.protectedMode = false →
    (sreg, g) ∈ [((0 : Field3), Seg.es), (2, .ss), (3, .ds), (4, .fs), (5, .gs)] →
    ∃ t, exec (.movSregRm16 sreg rm) s = .next t ∧
      operandRead16 (selectOperand rm s) s = some ((t.seg g).selector, t.device) ∧
      (t.seg g).base = (t.seg g).selector.zeroExtend 32 <<< 4 ∧
      (t.seg g).limit = (s.seg g).limit ∧ (t.seg g).access = (s.seg g).access ∧
      (∀ q, q ≠ g → t.seg q = s.seg q) ∧
      RegsKept s t ∧ MemKept s t ∧ ControlKept s t ∧ t.ip = s.ip

/-- 41_data_transfer and 60_exceptions section 4 (D21): a `reg` field with no meaning in C6, C7, 8C or
8E stops the machine where its ModRM fetches have ended, with no register, segment or memory written, no
bus call made and no fault recorded; the handler of C6 and C7 fetches no immediate after such a field. -/
def Obligations.MeaninglessRegFieldStops : Prop :=
  (∀ (rm : RM) (s : State) (i : Instr) (r : StopReason),
    ((∃ n, n ≠ 0 ∧ i = .movRm8Imm8 rm (.noMeaning n) ∧ r = .c6Reg) ∨
     (∃ n, n ≠ 0 ∧ i = .movRm16Imm16 rm (.noMeaning n) ∧ r = .c7Reg) ∨
     (∃ n : Field3, 6 ≤ n.toNat ∧ i = .movRm16Sreg rm n ∧ r = .sregRead) ∨
     (∃ n : Field3, (n = 1 ∨ 6 ≤ n.toNat) ∧ i = .movSregRm16 n rm ∧ r = .sregWrite)) →
    ∃ t, exec i s = .next t ∧ t.status = .stopped r ∧ t.trace = s.trace ++ [.stopped r] ∧
      t.faults = s.faults ∧ t.flags = s.flags ∧ t.deferredIe = s.deferredIe ∧ RegsKept s t ∧
      SegsKept s t ∧ t.device = s.device ∧ t.busLog = s.busLog ∧ t.ip = s.ip) ∧
  (∀ (b : Byte) (bs rest : List Byte) (i : Instr) (rm : RM) (n : Field3), n ≠ 0 →
    decodeModRM bs = some ((rm, n), rest) →
    (decodeHandler .movRm8Imm8 b bs = some (i, rest) ↔ i = .movRm8Imm8 rm (.noMeaning n)) ∧
    (decodeHandler .movRm16Imm16 b bs = some (i, rest) ↔ i = .movRm16Imm16 rm (.noMeaning n)))

/-- 20_memory sections 6 and 9 (D24, D39): the bus calls of every handler start with its operand fetches in
`ip` order, on the reference bus those of the instruction that the bytes at `ip` are; then a MOV with an
r/m operand makes, for a memory operand, exactly one data access of its width at its address, and for a
register operand none. -/
def Obligations.MovBusCallsInOrder : Prop :=
  (∀ (h : Handler) (b : Byte) (s : State) (i : Instr) (rest : List Byte), s.onReference →
    decodeHandler h b (bytesFrom s.mem 5 (codeAddress s)) = some (i, rest) →
    s.canFetch i.operandBytes →
    ∃ t, fetchPlan (operandPlan h b) s = .go i t ∧ Fetched (operandFetches i) s t ∧
      t.busLog = s.busLog ++ codeReads s (operandFetches i) s.ip) ∧
  (∀ (rm : RM) (s t : State), accessible rm s →
    (∀ reg, exec (.movRm8R8 rm reg) s = .next t →
      t.busLog = s.busLog ++ storeCalls8 (selectOperand rm s) (s.r8 reg) s) ∧
    (∀ reg, exec (.movRm16R16 rm reg) s = .next t →
      t.busLog = s.busLog ++ storeCalls16 (selectOperand rm s) (s.r16 reg) s) ∧
    (∀ reg, exec (.movR8Rm8 reg rm) s = .next t →
      t.busLog = s.busLog ++ loadCalls8 (selectOperand rm s) s) ∧
    (∀ reg, exec (.movR16Rm16 reg rm) s = .next t →
      t.busLog = s.busLog ++ loadCalls16 (selectOperand rm s) s) ∧
    (∀ n g, Seg.ofField n = some g → exec (.movRm16Sreg rm n) s = .next t →
      t.busLog = s.busLog ++ storeCalls16 (selectOperand rm s) (s.seg g).selector s) ∧
    (∀ n g, Seg.ofField n = some g → g ≠ .cs → exec (.movSregRm16 n rm) s = .next t →
      t.busLog = s.busLog ++ loadCalls16 (selectOperand rm s) s) ∧
    (∀ v, exec (.movRm8Imm8 rm (.value v)) s = .next t →
      t.busLog = s.busLog ++ storeCalls8 (selectOperand rm s) v s) ∧
    (∀ v, exec (.movRm16Imm16 rm (.value v)) s = .next t →
      t.busLog = s.busLog ++ storeCalls16 (selectOperand rm s) v s))

/-! ## 42_control_and_flags (the list of handlers is the spec's own choice D19) -/

/-- 42_control_and_flags section 1, JMP rel8 (16-bit target D32): relative to the next instruction, where
`ip` stands, modulo 2^16, upper half of `ip` cleared; nothing else changes. -/
def Obligations.JmpRel8Target : Prop :=
  ∀ (rel : Byte) (s : State),
    ∃ t, exec (.jmpRel8 rel) s = .next t ∧
      t.ip = (s.ip.truncate 16 + rel.signExtend 16).zeroExtend 32 ∧
      RegsKept s t ∧ SegsKept s t ∧ t.device = s.device ∧ MemKept s t ∧ ControlKept s t ∧
      t.busLog = s.busLog

/-- 42_control_and_flags section 1, JMP rel16 (16-bit target D32). -/
def Obligations.JmpRel16Target : Prop :=
  ∀ (rel : Word) (s : State),
    ∃ t, exec (.jmpRel16 rel) s = .next t ∧
      t.ip = (s.ip.truncate 16 + rel).zeroExtend 32 ∧
      RegsKept s t ∧ SegsKept s t ∧ t.device = s.device ∧ MemKept s t ∧ ControlKept s t ∧
      t.busLog = s.busLog

/-- 42_control_and_flags section 1, the far jump: CS is loaded as R31's operation loads it, its access
reset, its limit kept, and `ip` is the zero-extended offset; nothing else changes. -/
def Obligations.FarJumpLoadsCsAndIp : Prop :=
  ∀ (off sel : Word) (s : State), s.protectedMode = false →
    ∃ t, exec (.jmpPtr16 off sel) s = .next t ∧ t.ip = off.zeroExtend 32 ∧
      t.seg .cs = ⟨sel, sel.zeroExtend 32 <<< 4, (s.seg .cs).limit, accCodeER⟩ ∧
      (∀ q, q ≠ .cs → t.seg q = s.seg q) ∧ RegsKept s t ∧ t.device = s.device ∧ MemKept s t ∧
      ControlKept s t ∧ t.busLog = s.busLog

/-! ## 60_exceptions -/

/-- R205: trap entry does nothing architectural. Catching a fault changes only the two observation
lists, so the next tick starts and fetches where it would have; after GP `ip` is just past the tenth
byte, after NOT_ROUTED just past the second byte, and the only bus call is that byte's fetch. -/
def Obligations.CatchingAFaultChangesNothingElse : Prop :=
  (∀ (f : FaultRecord) (s : State), catchFault f s =
    { s with faults := s.faults ++ [f], trace := s.trace ++ [.faultReported f] }) ∧
  (∀ (f : FaultRecord) (s : State), s.canTick →
    (catchFault f s).canTick ∧ codeAddress (catchFault f s) = codeAddress s) ∧
  (∀ (k : Nat) (sec : Bool) (s : State), s.protectedMode = false → s.ctx.len + 1 = lengthLimit →
    ∃ t, opcodeStage (k + 1) sec s = .next t ∧ t.ip = s.ip + 1 ∧ t.faults = s.faults ++ [gpFault] ∧
      t.flags = s.flags ∧ t.segs = s.segs ∧ t.cr0 = s.cr0 ∧ t.regs = s.regs ∧ t.mem = s.mem ∧
      t.status = s.status ∧
      t.busLog = s.busLog ++ [.read .byte (codeAddress s) ((codeByte s).zeroExtend 32)] ∧
      t.device = (s.device.readByte (codeAddress s)).2) ∧
  (∀ (k : Nat) (s : State), s.protectedMode = false → s.ctx.len + 1 < lengthLimit →
    entryAtIp true s = .notRouted →
    ∃ t, opcodeStage (k + 1) true s = .next t ∧ t.ip = s.ip + 1 ∧
      t.faults = s.faults ++ [notRoutedFault (codeByte s)] ∧
      t.flags = s.flags ∧ t.segs = s.segs ∧ t.cr0 = s.cr0 ∧ t.regs = s.regs ∧ t.mem = s.mem ∧
      t.status = s.status ∧
      t.busLog = s.busLog ++ [.read .byte (codeAddress s) ((codeByte s).zeroExtend 32)] ∧
      t.device = (s.device.readByte (codeAddress s)).2)

/-- 41_data_transfer and 42_control_and_flags, common exceptions (D12), with 40_engine section 2: when
handler bytes count, the operand byte that is the tenth raises GP, whichever operand it belongs to. A
fetch of one byte (any bus) ends so with nine bytes accumulated, one of two bytes with eight or nine, the
bytes accumulated up to the tenth. So a handler, on the reference bus, ends at its fetch that reaches the
tenth byte, with the fetches up to that one made, `ip` past them, the ten bytes accumulated, one GP, and no
register, segment, memory, flag or deferred flag written; the stage ends there with it. -/
def Obligations.CountedOperandByteRaisesGP : Prop :=
  (∀ s : State, s.protectedMode = false → s.lenCounts = true → s.ctx.len = 9 →
    ∃ t, hFetch8 s = .ended t ∧ t.faults = s.faults ++ [gpFault] ∧ t.ip = s.ip + 1 ∧
      t.ctx.bytes = s.ctx.bytes ++ [(s.device.readByte (codeAddress s)).1] ∧
      t.device = (s.device.readByte (codeAddress s)).2 ∧ t.regs = s.regs ∧ t.segs = s.segs) ∧
  (∀ s : State, s.protectedMode = false → s.lenCounts = true → s.ctx.len = 8 ∨ s.ctx.len = 9 →
    ∃ t, hFetch16 s = .ended t ∧ t.faults = s.faults ++ [gpFault] ∧ t.ip = s.ip + 2 ∧
      t.ctx.bytes = s.ctx.bytes ++ [lowByte (s.device.readWord (codeAddress s)).1,
        highByte (s.device.readWord (codeAddress s)).1].take (10 - s.ctx.len) ∧
      t.device = (s.device.readWord (codeAddress s)).2 ∧ t.regs = s.regs ∧ t.segs = s.segs) ∧
  (∀ (h : Handler) (b : Byte) (s : State) (i : Instr) (rest : List Byte), s.onReference →
    s.protectedMode = false → s.lenCounts = true → s.ctx.len ≤ 9 →
    decodeHandler h b (bytesFrom s.mem 5 (codeAddress s)) = some (i, rest) →
    10 ≤ s.ctx.len + i.operandBytes →
    ∃ t, fetchPlan (operandPlan h b) s = .ended t ∧
      t.faults = s.faults ++ [gpFault] ∧ t.trace = s.trace ++ [.faultReported gpFault] ∧
      t.ctx.bytes = s.ctx.bytes ++ bytesFrom s.mem (10 - s.ctx.len) (codeAddress s) ∧
      t.ip = s.ip +
        BitVec.ofNat 32 (totalSize (fetchesUpTo (10 - s.ctx.len) (operandFetches i))) ∧
      t.busLog = s.busLog ++
        codeReads s (fetchesUpTo (10 - s.ctx.len) (operandFetches i)) s.ip ∧
      t.regs = s.regs ∧ t.segs = s.segs ∧ t.device = s.device ∧ t.deferredIe = s.deferredIe ∧
      t.flags = s.flags ∧ t.cr0 = s.cr0 ∧ t.tables = s.tables ∧ t.status = s.status ∧
      ∀ (k : Nat) (sec : Bool) (s' : State), opcodeFetch s' = .go b s →
        s.tables.entry sec b = .handler h → opcodeStage (k + 1) sec s' = .next t)

/-- 60_exceptions section 8 (state after a fault) with D16: a tick that records a fault leaves
registers, segments, memory, control register, tables and status as they were, and the machine
running. -/
def Obligations.FaultedTickWritesNothing : Prop :=
  ∀ s t : State, step s = .next t → t.faults ≠ s.faults →
    t.regs = s.regs ∧ t.segs = s.segs ∧ t.mem = s.mem ∧ t.cr0 = s.cr0 ∧ t.tables = s.tables ∧
    t.status = .running ∧ ∃ f, t.faults = s.faults ++ [f]

/-! ## 70_reset_and_hazards -/

/-- 70_reset_and_hazards section 1: what `init` establishes, for every launch (the deferred flag, the
widths, the flag positions and the access values are the spec's own choices D6, D9, D10, D11; the open
values are the launch's, D7, D8). -/
def Obligations.InitEstablishesTheResetState : Prop :=
  ∀ p : Launch,
    ((State.init p).seg .cs).selector = 0xF000 ∧ ((State.init p).seg .cs).base = 0x00FF0000 ∧
    ((State.init p).seg .cs).access = accCodeER ∧
    (∀ g, ((State.init p).seg g).limit = 0xFFFF) ∧
    (∀ g, g ≠ .cs → ((State.init p).seg g).access = accDefault) ∧
    ((State.init p).seg .ds).selector = p.dsInit.selector ∧
    ((State.init p).seg .ds).base = p.dsInit.base ∧
    ((State.init p).seg .ss).selector = p.ssInit.selector ∧
    ((State.init p).seg .ss).base = p.ssInit.base ∧
    ((State.init p).seg .es).selector = p.esInit.selector ∧
    ((State.init p).seg .es).base = p.esInit.base ∧
    ((State.init p).seg .fs).selector = p.fsInit.selector ∧
    ((State.init p).seg .fs).base = p.fsInit.base ∧
    ((State.init p).seg .gs).selector = p.gsInit.selector ∧
    ((State.init p).seg .gs).base = p.gsInit.base ∧
    (∀ n : Field3, (State.init p).r16 (Reg16.ofField n) = p.gprInit[n.toNat]'n.isLt) ∧
    (State.init p).ip = 0x0000FFF0 ∧ (State.init p).flags = 0x0002 ∧
    (State.init p).interruptEnable = false ∧ (State.init p).cr0 = 0x0000FFF0 ∧
    (State.init p).protectedMode = false ∧ (State.init p).deferredIe = false ∧
    (State.init p).opsize = .bits16 ∧ (State.init p).addrsize = .bits16 ∧
    (State.init p).ctx = ⟨[], none, none, .none⟩ ∧ (State.init p).status = .running ∧
    (State.init p).faults = [] ∧ (State.init p).trace = [] ∧ (State.init p).busLog = [] ∧
    (State.init p).device = (match p.bus with
      | .reference => .reference p.memInit
      | .injected c => .injected c) ∧ (State.init p).tables = buildTables p.descriptors ∧
    codeAddress (State.init p) = 0x00FFFFF0

/-- The machine's invariant holds after `init` of every launch whose memory is canonical (log 3), so
after reset. -/
def Obligations.InitMeetsTheInvariant : Prop :=
  (∀ p : Launch, Memory.wf p.memInit = true → (State.init p).Inv) ∧ State.reset.Inv

/-- Every step keeps the invariant: canonical memory (log 3), a decode buffer of at most ten bytes, the
reserved flag set, 16-bit real mode, full limits (10_state sections 2 to 7, 60_exceptions section 10). -/
def Obligations.StepKeepsTheInvariant : Prop :=
  ∀ s t : State, s.Inv → step s = .next t → t.Inv

/-- 70_reset_and_hazards section 3 and 40_engine section 1 (D16, D17): a running machine always has a
next state, whatever its state and the bytes at `ip`; every instruction, in every state, answers a next
state. -/
def Obligations.RunningMachineAlwaysSteps : Prop :=
  (∀ (i : Instr) (s : State), ∃ t, exec i s = .next t) ∧
  (∀ s : State, s.isRunning → ∃ t, step s = .next t)

/-- 10_state section 10 and 40_engine section 1 (D17, D36; log 11): a stopped machine has no step, and
`run` makes no tick on it. -/
def Obligations.StoppedMachineHasNoStep : Prop :=
  ∀ (s : State) (r : StopReason), s.status = .stopped r →
    step s = .fault (.stopped r) ∧ ∀ n, run n s = .next s

/-- 40_engine section 1, `run(n)` (D17, D36): it always answers a state, a fault never ends it, `m + n`
ticks are `m` ticks and then `n`, and a run that ends running made every one of its ticks: one more is
one more step. -/
def Obligations.RunIsRepeatedTicks : Prop :=
  (∀ (n : Nat) (s : State), ∃ t, run n s = .next t) ∧
  (∀ (m n : Nat) (s t : State), run m s = .next t → run (m + n) s = run n t) ∧
  (∀ (n : Nat) (s t : State), run n s = .next t → t.isRunning → run (n + 1) s = step t)

/-! ## The whole machine -/

/-- 10_state sections 2, 5, 9 and 10 (D11, D26; log 5), 00_scope section 3 (the bus is a launch parameter;
log 4): no step changes the control register, the dispatch tables, a segment limit, the configuration or
which bus there is. -/
def Obligations.ConfigurationNeverChanges : Prop :=
  ∀ s t : State, step s = .next t →
    t.cr0 = s.cr0 ∧ t.tables = s.tables ∧ t.lenCounts = s.lenCounts ∧
    (t.onReference ↔ s.onReference) ∧ ∀ g, (t.seg g).limit = (s.seg g).limit

/-- 10_state section 10 (D16, D27; log 14): faults, trace and the record of bus calls only grow. -/
def Obligations.ObservationsOnlyGrow : Prop :=
  ∀ s t : State, step s = .next t →
    s.faults <+: t.faults ∧ s.trace <+: t.trace ∧ s.busLog <+: t.busLog

/-- 10_state section 2 (derived there from the list D19): only the far jump changes CS, only MOV Sreg
changes another segment, and what either leaves has a base of `selector << 4`. -/
def Obligations.SegmentsChangeOnlyByLoads : Prop :=
  ∀ (i : Instr) (s t : State) (g : Seg), exec i s = .next t → t.seg g ≠ s.seg g →
    ((g = .cs ∧ ∃ off sel, i = .jmpPtr16 off sel) ∨
     (g ≠ .cs ∧ ∃ sreg rm, i = .movSregRm16 sreg rm ∧ Seg.ofField sreg = some g)) ∧
    (t.seg g).base = (t.seg g).selector.zeroExtend 32 <<< 4

/-- 10_state section 10 (D16, D27; log 14): no rule reads the observation lists: a step from a state
with them emptied is the same step. -/
def Obligations.ObservationsAreNeverRead : Prop :=
  ∀ s : State, mapNext State.eraseObs (step s.eraseObs) = mapNext State.eraseObs (step s)

/-- 10_state section 2 (D26): no rule reads a segment limit: a step from a state with other limits is
the same step, the limits carried along. -/
def Obligations.LimitsAreNeverRead : Prop :=
  ∀ (s : State) (l : Word), step (s.withLimits l) = mapNext (fun t => t.withLimits l) (step s)
end

