-- ==== Sys2Proof/Laws/State.lean ====
section
/-! SUPPORT. One lemma per field per update of the state, so that no later proof unfolds a record
update; and reads after writes of registers, halves and segments. -/

namespace Sys2Proof.Machine

section Updates

variable (s : State)

/-! ### `setIp` -/

@[simp] theorem State.setIp_regs (v : Dword) : (s.setIp v).regs = s.regs := rfl
@[simp] theorem State.setIp_segs (v : Dword) : (s.setIp v).segs = s.segs := rfl
@[simp] theorem State.setIp_ip (v : Dword) : (s.setIp v).ip = v := rfl
@[simp] theorem State.setIp_flags (v : Dword) : (s.setIp v).flags = s.flags := rfl
@[simp] theorem State.setIp_cr0 (v : Dword) : (s.setIp v).cr0 = s.cr0 := rfl
@[simp] theorem State.setIp_opsize (v : Dword) : (s.setIp v).opsize = s.opsize := rfl
@[simp] theorem State.setIp_addrsize (v : Dword) : (s.setIp v).addrsize = s.addrsize := rfl
@[simp] theorem State.setIp_ctx (v : Dword) : (s.setIp v).ctx = s.ctx := rfl
@[simp] theorem State.setIp_deferredIe (v : Dword) : (s.setIp v).deferredIe = s.deferredIe := rfl
@[simp] theorem State.setIp_tables (v : Dword) : (s.setIp v).tables = s.tables := rfl
@[simp] theorem State.setIp_status (v : Dword) : (s.setIp v).status = s.status := rfl
@[simp] theorem State.setIp_faults (v : Dword) : (s.setIp v).faults = s.faults := rfl
@[simp] theorem State.setIp_trace (v : Dword) : (s.setIp v).trace = s.trace := rfl
@[simp] theorem State.setIp_device (v : Dword) : (s.setIp v).device = s.device := rfl
@[simp] theorem State.setIp_lenCounts (v : Dword) : (s.setIp v).lenCounts = s.lenCounts := rfl
@[simp] theorem State.setIp_busLog (v : Dword) : (s.setIp v).busLog = s.busLog := rfl

/-! ### `setSizes` -/

@[simp] theorem State.setSizes_regs (op addr : SizeMode) : (s.setSizes op addr).regs = s.regs := rfl
@[simp] theorem State.setSizes_segs (op addr : SizeMode) : (s.setSizes op addr).segs = s.segs := rfl
@[simp] theorem State.setSizes_ip (op addr : SizeMode) : (s.setSizes op addr).ip = s.ip := rfl
@[simp] theorem State.setSizes_flags (op addr : SizeMode) : (s.setSizes op addr).flags = s.flags := rfl
@[simp] theorem State.setSizes_cr0 (op addr : SizeMode) : (s.setSizes op addr).cr0 = s.cr0 := rfl
@[simp] theorem State.setSizes_opsize (op addr : SizeMode) : (s.setSizes op addr).opsize = op := rfl
@[simp] theorem State.setSizes_addrsize (op addr : SizeMode) : (s.setSizes op addr).addrsize = addr := rfl
@[simp] theorem State.setSizes_ctx (op addr : SizeMode) : (s.setSizes op addr).ctx = s.ctx := rfl
@[simp] theorem State.setSizes_deferredIe (op addr : SizeMode) : (s.setSizes op addr).deferredIe = s.deferredIe := rfl
@[simp] theorem State.setSizes_tables (op addr : SizeMode) : (s.setSizes op addr).tables = s.tables := rfl
@[simp] theorem State.setSizes_status (op addr : SizeMode) : (s.setSizes op addr).status = s.status := rfl
@[simp] theorem State.setSizes_faults (op addr : SizeMode) : (s.setSizes op addr).faults = s.faults := rfl
@[simp] theorem State.setSizes_trace (op addr : SizeMode) : (s.setSizes op addr).trace = s.trace := rfl
@[simp] theorem State.setSizes_device (op addr : SizeMode) : (s.setSizes op addr).device = s.device := rfl
@[simp] theorem State.setSizes_lenCounts (op addr : SizeMode) : (s.setSizes op addr).lenCounts = s.lenCounts := rfl
@[simp] theorem State.setSizes_busLog (op addr : SizeMode) : (s.setSizes op addr).busLog = s.busLog := rfl

/-! ### `setCtx` -/

@[simp] theorem State.setCtx_regs (c : Ctx) : (s.setCtx c).regs = s.regs := rfl
@[simp] theorem State.setCtx_segs (c : Ctx) : (s.setCtx c).segs = s.segs := rfl
@[simp] theorem State.setCtx_ip (c : Ctx) : (s.setCtx c).ip = s.ip := rfl
@[simp] theorem State.setCtx_flags (c : Ctx) : (s.setCtx c).flags = s.flags := rfl
@[simp] theorem State.setCtx_cr0 (c : Ctx) : (s.setCtx c).cr0 = s.cr0 := rfl
@[simp] theorem State.setCtx_opsize (c : Ctx) : (s.setCtx c).opsize = s.opsize := rfl
@[simp] theorem State.setCtx_addrsize (c : Ctx) : (s.setCtx c).addrsize = s.addrsize := rfl
@[simp] theorem State.setCtx_ctx (c : Ctx) : (s.setCtx c).ctx = c := rfl
@[simp] theorem State.setCtx_deferredIe (c : Ctx) : (s.setCtx c).deferredIe = s.deferredIe := rfl
@[simp] theorem State.setCtx_tables (c : Ctx) : (s.setCtx c).tables = s.tables := rfl
@[simp] theorem State.setCtx_status (c : Ctx) : (s.setCtx c).status = s.status := rfl
@[simp] theorem State.setCtx_faults (c : Ctx) : (s.setCtx c).faults = s.faults := rfl
@[simp] theorem State.setCtx_trace (c : Ctx) : (s.setCtx c).trace = s.trace := rfl
@[simp] theorem State.setCtx_device (c : Ctx) : (s.setCtx c).device = s.device := rfl
@[simp] theorem State.setCtx_lenCounts (c : Ctx) : (s.setCtx c).lenCounts = s.lenCounts := rfl
@[simp] theorem State.setCtx_busLog (c : Ctx) : (s.setCtx c).busLog = s.busLog := rfl

/-! ### `setDeferredIe` -/

@[simp] theorem State.setDeferredIe_regs (b : Bool) : (s.setDeferredIe b).regs = s.regs := rfl
@[simp] theorem State.setDeferredIe_segs (b : Bool) : (s.setDeferredIe b).segs = s.segs := rfl
@[simp] theorem State.setDeferredIe_ip (b : Bool) : (s.setDeferredIe b).ip = s.ip := rfl
@[simp] theorem State.setDeferredIe_flags (b : Bool) : (s.setDeferredIe b).flags = s.flags := rfl
@[simp] theorem State.setDeferredIe_cr0 (b : Bool) : (s.setDeferredIe b).cr0 = s.cr0 := rfl
@[simp] theorem State.setDeferredIe_opsize (b : Bool) : (s.setDeferredIe b).opsize = s.opsize := rfl
@[simp] theorem State.setDeferredIe_addrsize (b : Bool) : (s.setDeferredIe b).addrsize = s.addrsize := rfl
@[simp] theorem State.setDeferredIe_ctx (b : Bool) : (s.setDeferredIe b).ctx = s.ctx := rfl
@[simp] theorem State.setDeferredIe_deferredIe (b : Bool) : (s.setDeferredIe b).deferredIe = b := rfl
@[simp] theorem State.setDeferredIe_tables (b : Bool) : (s.setDeferredIe b).tables = s.tables := rfl
@[simp] theorem State.setDeferredIe_status (b : Bool) : (s.setDeferredIe b).status = s.status := rfl
@[simp] theorem State.setDeferredIe_faults (b : Bool) : (s.setDeferredIe b).faults = s.faults := rfl
@[simp] theorem State.setDeferredIe_trace (b : Bool) : (s.setDeferredIe b).trace = s.trace := rfl
@[simp] theorem State.setDeferredIe_device (b : Bool) : (s.setDeferredIe b).device = s.device := rfl
@[simp] theorem State.setDeferredIe_lenCounts (b : Bool) : (s.setDeferredIe b).lenCounts = s.lenCounts := rfl
@[simp] theorem State.setDeferredIe_busLog (b : Bool) : (s.setDeferredIe b).busLog = s.busLog := rfl

/-! ### `setStatus` -/

@[simp] theorem State.setStatus_regs (st : Status) : (s.setStatus st).regs = s.regs := rfl
@[simp] theorem State.setStatus_segs (st : Status) : (s.setStatus st).segs = s.segs := rfl
@[simp] theorem State.setStatus_ip (st : Status) : (s.setStatus st).ip = s.ip := rfl
@[simp] theorem State.setStatus_flags (st : Status) : (s.setStatus st).flags = s.flags := rfl
@[simp] theorem State.setStatus_cr0 (st : Status) : (s.setStatus st).cr0 = s.cr0 := rfl
@[simp] theorem State.setStatus_opsize (st : Status) : (s.setStatus st).opsize = s.opsize := rfl
@[simp] theorem State.setStatus_addrsize (st : Status) : (s.setStatus st).addrsize = s.addrsize := rfl
@[simp] theorem State.setStatus_ctx (st : Status) : (s.setStatus st).ctx = s.ctx := rfl
@[simp] theorem State.setStatus_deferredIe (st : Status) : (s.setStatus st).deferredIe = s.deferredIe := rfl
@[simp] theorem State.setStatus_tables (st : Status) : (s.setStatus st).tables = s.tables := rfl
@[simp] theorem State.setStatus_status (st : Status) : (s.setStatus st).status = st := rfl
@[simp] theorem State.setStatus_faults (st : Status) : (s.setStatus st).faults = s.faults := rfl
@[simp] theorem State.setStatus_trace (st : Status) : (s.setStatus st).trace = s.trace := rfl
@[simp] theorem State.setStatus_device (st : Status) : (s.setStatus st).device = s.device := rfl
@[simp] theorem State.setStatus_lenCounts (st : Status) : (s.setStatus st).lenCounts = s.lenCounts := rfl
@[simp] theorem State.setStatus_busLog (st : Status) : (s.setStatus st).busLog = s.busLog := rfl

/-! ### `setDevice` -/

@[simp] theorem State.setDevice_regs (d : Device) : (s.setDevice d).regs = s.regs := rfl
@[simp] theorem State.setDevice_segs (d : Device) : (s.setDevice d).segs = s.segs := rfl
@[simp] theorem State.setDevice_ip (d : Device) : (s.setDevice d).ip = s.ip := rfl
@[simp] theorem State.setDevice_flags (d : Device) : (s.setDevice d).flags = s.flags := rfl
@[simp] theorem State.setDevice_cr0 (d : Device) : (s.setDevice d).cr0 = s.cr0 := rfl
@[simp] theorem State.setDevice_opsize (d : Device) : (s.setDevice d).opsize = s.opsize := rfl
@[simp] theorem State.setDevice_addrsize (d : Device) : (s.setDevice d).addrsize = s.addrsize := rfl
@[simp] theorem State.setDevice_ctx (d : Device) : (s.setDevice d).ctx = s.ctx := rfl
@[simp] theorem State.setDevice_deferredIe (d : Device) : (s.setDevice d).deferredIe = s.deferredIe := rfl
@[simp] theorem State.setDevice_tables (d : Device) : (s.setDevice d).tables = s.tables := rfl
@[simp] theorem State.setDevice_status (d : Device) : (s.setDevice d).status = s.status := rfl
@[simp] theorem State.setDevice_faults (d : Device) : (s.setDevice d).faults = s.faults := rfl
@[simp] theorem State.setDevice_trace (d : Device) : (s.setDevice d).trace = s.trace := rfl
@[simp] theorem State.setDevice_device (d : Device) : (s.setDevice d).device = d := rfl
@[simp] theorem State.setDevice_lenCounts (d : Device) : (s.setDevice d).lenCounts = s.lenCounts := rfl
@[simp] theorem State.setDevice_busLog (d : Device) : (s.setDevice d).busLog = s.busLog := rfl

/-! ### `emit` -/

@[simp] theorem State.emit_regs (e : Event) : (s.emit e).regs = s.regs := rfl
@[simp] theorem State.emit_segs (e : Event) : (s.emit e).segs = s.segs := rfl
@[simp] theorem State.emit_ip (e : Event) : (s.emit e).ip = s.ip := rfl
@[simp] theorem State.emit_flags (e : Event) : (s.emit e).flags = s.flags := rfl
@[simp] theorem State.emit_cr0 (e : Event) : (s.emit e).cr0 = s.cr0 := rfl
@[simp] theorem State.emit_opsize (e : Event) : (s.emit e).opsize = s.opsize := rfl
@[simp] theorem State.emit_addrsize (e : Event) : (s.emit e).addrsize = s.addrsize := rfl
@[simp] theorem State.emit_ctx (e : Event) : (s.emit e).ctx = s.ctx := rfl
@[simp] theorem State.emit_deferredIe (e : Event) : (s.emit e).deferredIe = s.deferredIe := rfl
@[simp] theorem State.emit_tables (e : Event) : (s.emit e).tables = s.tables := rfl
@[simp] theorem State.emit_status (e : Event) : (s.emit e).status = s.status := rfl
@[simp] theorem State.emit_faults (e : Event) : (s.emit e).faults = s.faults := rfl
@[simp] theorem State.emit_trace (e : Event) : (s.emit e).trace = s.trace ++ [e] := rfl
@[simp] theorem State.emit_device (e : Event) : (s.emit e).device = s.device := rfl
@[simp] theorem State.emit_lenCounts (e : Event) : (s.emit e).lenCounts = s.lenCounts := rfl
@[simp] theorem State.emit_busLog (e : Event) : (s.emit e).busLog = s.busLog := rfl

/-! ### `recordFault` -/

@[simp] theorem State.recordFault_regs (f : FaultRecord) : (s.recordFault f).regs = s.regs := rfl
@[simp] theorem State.recordFault_segs (f : FaultRecord) : (s.recordFault f).segs = s.segs := rfl
@[simp] theorem State.recordFault_ip (f : FaultRecord) : (s.recordFault f).ip = s.ip := rfl
@[simp] theorem State.recordFault_flags (f : FaultRecord) : (s.recordFault f).flags = s.flags := rfl
@[simp] theorem State.recordFault_cr0 (f : FaultRecord) : (s.recordFault f).cr0 = s.cr0 := rfl
@[simp] theorem State.recordFault_opsize (f : FaultRecord) : (s.recordFault f).opsize = s.opsize := rfl
@[simp] theorem State.recordFault_addrsize (f : FaultRecord) : (s.recordFault f).addrsize = s.addrsize := rfl
@[simp] theorem State.recordFault_ctx (f : FaultRecord) : (s.recordFault f).ctx = s.ctx := rfl
@[simp] theorem State.recordFault_deferredIe (f : FaultRecord) : (s.recordFault f).deferredIe = s.deferredIe := rfl
@[simp] theorem State.recordFault_tables (f : FaultRecord) : (s.recordFault f).tables = s.tables := rfl
@[simp] theorem State.recordFault_status (f : FaultRecord) : (s.recordFault f).status = s.status := rfl
@[simp] theorem State.recordFault_faults (f : FaultRecord) : (s.recordFault f).faults = s.faults ++ [f] := rfl
@[simp] theorem State.recordFault_trace (f : FaultRecord) : (s.recordFault f).trace = s.trace := rfl
@[simp] theorem State.recordFault_device (f : FaultRecord) : (s.recordFault f).device = s.device := rfl
@[simp] theorem State.recordFault_lenCounts (f : FaultRecord) : (s.recordFault f).lenCounts = s.lenCounts := rfl
@[simp] theorem State.recordFault_busLog (f : FaultRecord) : (s.recordFault f).busLog = s.busLog := rfl

/-! ### `logBus` -/

@[simp] theorem State.logBus_regs (c : BusCall) : (s.logBus c).regs = s.regs := rfl
@[simp] theorem State.logBus_segs (c : BusCall) : (s.logBus c).segs = s.segs := rfl
@[simp] theorem State.logBus_ip (c : BusCall) : (s.logBus c).ip = s.ip := rfl
@[simp] theorem State.logBus_flags (c : BusCall) : (s.logBus c).flags = s.flags := rfl
@[simp] theorem State.logBus_cr0 (c : BusCall) : (s.logBus c).cr0 = s.cr0 := rfl
@[simp] theorem State.logBus_opsize (c : BusCall) : (s.logBus c).opsize = s.opsize := rfl
@[simp] theorem State.logBus_addrsize (c : BusCall) : (s.logBus c).addrsize = s.addrsize := rfl
@[simp] theorem State.logBus_ctx (c : BusCall) : (s.logBus c).ctx = s.ctx := rfl
@[simp] theorem State.logBus_deferredIe (c : BusCall) : (s.logBus c).deferredIe = s.deferredIe := rfl
@[simp] theorem State.logBus_tables (c : BusCall) : (s.logBus c).tables = s.tables := rfl
@[simp] theorem State.logBus_status (c : BusCall) : (s.logBus c).status = s.status := rfl
@[simp] theorem State.logBus_faults (c : BusCall) : (s.logBus c).faults = s.faults := rfl
@[simp] theorem State.logBus_trace (c : BusCall) : (s.logBus c).trace = s.trace := rfl
@[simp] theorem State.logBus_device (c : BusCall) : (s.logBus c).device = s.device := rfl
@[simp] theorem State.logBus_lenCounts (c : BusCall) : (s.logBus c).lenCounts = s.lenCounts := rfl
@[simp] theorem State.logBus_busLog (c : BusCall) : (s.logBus c).busLog = s.busLog ++ [c] := rfl

/-! ### `setR16` -/

@[simp] theorem State.setR16_regs (r : Reg16) (v : Word) : (s.setR16 r v).regs = s.regs.set r v := rfl
@[simp] theorem State.setR16_segs (r : Reg16) (v : Word) : (s.setR16 r v).segs = s.segs := rfl
@[simp] theorem State.setR16_ip (r : Reg16) (v : Word) : (s.setR16 r v).ip = s.ip := rfl
@[simp] theorem State.setR16_flags (r : Reg16) (v : Word) : (s.setR16 r v).flags = s.flags := rfl
@[simp] theorem State.setR16_cr0 (r : Reg16) (v : Word) : (s.setR16 r v).cr0 = s.cr0 := rfl
@[simp] theorem State.setR16_opsize (r : Reg16) (v : Word) : (s.setR16 r v).opsize = s.opsize := rfl
@[simp] theorem State.setR16_addrsize (r : Reg16) (v : Word) : (s.setR16 r v).addrsize = s.addrsize := rfl
@[simp] theorem State.setR16_ctx (r : Reg16) (v : Word) : (s.setR16 r v).ctx = s.ctx := rfl
@[simp] theorem State.setR16_deferredIe (r : Reg16) (v : Word) : (s.setR16 r v).deferredIe = s.deferredIe := rfl
@[simp] theorem State.setR16_tables (r : Reg16) (v : Word) : (s.setR16 r v).tables = s.tables := rfl
@[simp] theorem State.setR16_status (r : Reg16) (v : Word) : (s.setR16 r v).status = s.status := rfl
@[simp] theorem State.setR16_faults (r : Reg16) (v : Word) : (s.setR16 r v).faults = s.faults := rfl
@[simp] theorem State.setR16_trace (r : Reg16) (v : Word) : (s.setR16 r v).trace = s.trace := rfl
@[simp] theorem State.setR16_device (r : Reg16) (v : Word) : (s.setR16 r v).device = s.device := rfl
@[simp] theorem State.setR16_lenCounts (r : Reg16) (v : Word) : (s.setR16 r v).lenCounts = s.lenCounts := rfl
@[simp] theorem State.setR16_busLog (r : Reg16) (v : Word) : (s.setR16 r v).busLog = s.busLog := rfl

/-! ### `setSeg` -/

@[simp] theorem State.setSeg_regs (g : Seg) (d : SegDesc) : (s.setSeg g d).regs = s.regs := rfl
@[simp] theorem State.setSeg_segs (g : Seg) (d : SegDesc) : (s.setSeg g d).segs = s.segs.set g d := rfl
@[simp] theorem State.setSeg_ip (g : Seg) (d : SegDesc) : (s.setSeg g d).ip = s.ip := rfl
@[simp] theorem State.setSeg_flags (g : Seg) (d : SegDesc) : (s.setSeg g d).flags = s.flags := rfl
@[simp] theorem State.setSeg_cr0 (g : Seg) (d : SegDesc) : (s.setSeg g d).cr0 = s.cr0 := rfl
@[simp] theorem State.setSeg_opsize (g : Seg) (d : SegDesc) : (s.setSeg g d).opsize = s.opsize := rfl
@[simp] theorem State.setSeg_addrsize (g : Seg) (d : SegDesc) : (s.setSeg g d).addrsize = s.addrsize := rfl
@[simp] theorem State.setSeg_ctx (g : Seg) (d : SegDesc) : (s.setSeg g d).ctx = s.ctx := rfl
@[simp] theorem State.setSeg_deferredIe (g : Seg) (d : SegDesc) : (s.setSeg g d).deferredIe = s.deferredIe := rfl
@[simp] theorem State.setSeg_tables (g : Seg) (d : SegDesc) : (s.setSeg g d).tables = s.tables := rfl
@[simp] theorem State.setSeg_status (g : Seg) (d : SegDesc) : (s.setSeg g d).status = s.status := rfl
@[simp] theorem State.setSeg_faults (g : Seg) (d : SegDesc) : (s.setSeg g d).faults = s.faults := rfl
@[simp] theorem State.setSeg_trace (g : Seg) (d : SegDesc) : (s.setSeg g d).trace = s.trace := rfl
@[simp] theorem State.setSeg_device (g : Seg) (d : SegDesc) : (s.setSeg g d).device = s.device := rfl
@[simp] theorem State.setSeg_lenCounts (g : Seg) (d : SegDesc) : (s.setSeg g d).lenCounts = s.lenCounts := rfl
@[simp] theorem State.setSeg_busLog (g : Seg) (d : SegDesc) : (s.setSeg g d).busLog = s.busLog := rfl

/-! ### `writeFlags` -/

@[simp] theorem State.writeFlags_regs (v : Word) : (s.writeFlags v).regs = s.regs := rfl
@[simp] theorem State.writeFlags_segs (v : Word) : (s.writeFlags v).segs = s.segs := rfl
@[simp] theorem State.writeFlags_ip (v : Word) : (s.writeFlags v).ip = s.ip := rfl
@[simp] theorem State.writeFlags_flags (v : Word) : (s.writeFlags v).flags = v ||| flagReserved := rfl
@[simp] theorem State.writeFlags_cr0 (v : Word) : (s.writeFlags v).cr0 = s.cr0 := rfl
@[simp] theorem State.writeFlags_opsize (v : Word) : (s.writeFlags v).opsize = s.opsize := rfl
@[simp] theorem State.writeFlags_addrsize (v : Word) : (s.writeFlags v).addrsize = s.addrsize := rfl
@[simp] theorem State.writeFlags_ctx (v : Word) : (s.writeFlags v).ctx = s.ctx := rfl
@[simp] theorem State.writeFlags_deferredIe (v : Word) : (s.writeFlags v).deferredIe = s.deferredIe := rfl
@[simp] theorem State.writeFlags_tables (v : Word) : (s.writeFlags v).tables = s.tables := rfl
@[simp] theorem State.writeFlags_status (v : Word) : (s.writeFlags v).status = s.status := rfl
@[simp] theorem State.writeFlags_faults (v : Word) : (s.writeFlags v).faults = s.faults := rfl
@[simp] theorem State.writeFlags_trace (v : Word) : (s.writeFlags v).trace = s.trace := rfl
@[simp] theorem State.writeFlags_device (v : Word) : (s.writeFlags v).device = s.device := rfl
@[simp] theorem State.writeFlags_lenCounts (v : Word) : (s.writeFlags v).lenCounts = s.lenCounts := rfl
@[simp] theorem State.writeFlags_busLog (v : Word) : (s.writeFlags v).busLog = s.busLog := rfl

/-! ### `setCtxReg` -/

@[simp] theorem State.setCtxReg_regs (n : Field3) : (s.setCtxReg n).regs = s.regs := rfl
@[simp] theorem State.setCtxReg_segs (n : Field3) : (s.setCtxReg n).segs = s.segs := rfl
@[simp] theorem State.setCtxReg_ip (n : Field3) : (s.setCtxReg n).ip = s.ip := rfl
@[simp] theorem State.setCtxReg_flags (n : Field3) : (s.setCtxReg n).flags = s.flags := rfl
@[simp] theorem State.setCtxReg_cr0 (n : Field3) : (s.setCtxReg n).cr0 = s.cr0 := rfl
@[simp] theorem State.setCtxReg_opsize (n : Field3) : (s.setCtxReg n).opsize = s.opsize := rfl
@[simp] theorem State.setCtxReg_addrsize (n : Field3) : (s.setCtxReg n).addrsize = s.addrsize := rfl
@[simp] theorem State.setCtxReg_ctx (n : Field3) : (s.setCtxReg n).ctx = { s.ctx with reg := some n } := rfl
@[simp] theorem State.setCtxReg_deferredIe (n : Field3) : (s.setCtxReg n).deferredIe = s.deferredIe := rfl
@[simp] theorem State.setCtxReg_tables (n : Field3) : (s.setCtxReg n).tables = s.tables := rfl
@[simp] theorem State.setCtxReg_status (n : Field3) : (s.setCtxReg n).status = s.status := rfl
@[simp] theorem State.setCtxReg_faults (n : Field3) : (s.setCtxReg n).faults = s.faults := rfl
@[simp] theorem State.setCtxReg_trace (n : Field3) : (s.setCtxReg n).trace = s.trace := rfl
@[simp] theorem State.setCtxReg_device (n : Field3) : (s.setCtxReg n).device = s.device := rfl
@[simp] theorem State.setCtxReg_lenCounts (n : Field3) : (s.setCtxReg n).lenCounts = s.lenCounts := rfl
@[simp] theorem State.setCtxReg_busLog (n : Field3) : (s.setCtxReg n).busLog = s.busLog := rfl

/-! ### `setOperand` -/

@[simp] theorem State.setOperand_regs (o : Operand) : (s.setOperand o).regs = s.regs := rfl
@[simp] theorem State.setOperand_segs (o : Operand) : (s.setOperand o).segs = s.segs := rfl
@[simp] theorem State.setOperand_ip (o : Operand) : (s.setOperand o).ip = s.ip := rfl
@[simp] theorem State.setOperand_flags (o : Operand) : (s.setOperand o).flags = s.flags := rfl
@[simp] theorem State.setOperand_cr0 (o : Operand) : (s.setOperand o).cr0 = s.cr0 := rfl
@[simp] theorem State.setOperand_opsize (o : Operand) : (s.setOperand o).opsize = s.opsize := rfl
@[simp] theorem State.setOperand_addrsize (o : Operand) : (s.setOperand o).addrsize = s.addrsize := rfl
@[simp] theorem State.setOperand_ctx (o : Operand) : (s.setOperand o).ctx = { s.ctx with operand := o } := rfl
@[simp] theorem State.setOperand_deferredIe (o : Operand) : (s.setOperand o).deferredIe = s.deferredIe := rfl
@[simp] theorem State.setOperand_tables (o : Operand) : (s.setOperand o).tables = s.tables := rfl
@[simp] theorem State.setOperand_status (o : Operand) : (s.setOperand o).status = s.status := rfl
@[simp] theorem State.setOperand_faults (o : Operand) : (s.setOperand o).faults = s.faults := rfl
@[simp] theorem State.setOperand_trace (o : Operand) : (s.setOperand o).trace = s.trace := rfl
@[simp] theorem State.setOperand_device (o : Operand) : (s.setOperand o).device = s.device := rfl
@[simp] theorem State.setOperand_lenCounts (o : Operand) : (s.setOperand o).lenCounts = s.lenCounts := rfl
@[simp] theorem State.setOperand_busLog (o : Operand) : (s.setOperand o).busLog = s.busLog := rfl

/-! ### `setR8`, through the 16-bit register it belongs to -/

@[simp] theorem State.setR8_segs (r : Reg8) (v : Byte) : (s.setR8 r v).segs = s.segs := by
  unfold State.setR8; split <;> rfl
@[simp] theorem State.setR8_ip (r : Reg8) (v : Byte) : (s.setR8 r v).ip = s.ip := by
  unfold State.setR8; split <;> rfl
@[simp] theorem State.setR8_flags (r : Reg8) (v : Byte) : (s.setR8 r v).flags = s.flags := by
  unfold State.setR8; split <;> rfl
@[simp] theorem State.setR8_cr0 (r : Reg8) (v : Byte) : (s.setR8 r v).cr0 = s.cr0 := by
  unfold State.setR8; split <;> rfl
@[simp] theorem State.setR8_opsize (r : Reg8) (v : Byte) : (s.setR8 r v).opsize = s.opsize := by
  unfold State.setR8; split <;> rfl
@[simp] theorem State.setR8_addrsize (r : Reg8) (v : Byte) : (s.setR8 r v).addrsize = s.addrsize := by
  unfold State.setR8; split <;> rfl
@[simp] theorem State.setR8_ctx (r : Reg8) (v : Byte) : (s.setR8 r v).ctx = s.ctx := by
  unfold State.setR8; split <;> rfl
@[simp] theorem State.setR8_deferredIe (r : Reg8) (v : Byte) : (s.setR8 r v).deferredIe = s.deferredIe := by
  unfold State.setR8; split <;> rfl
@[simp] theorem State.setR8_tables (r : Reg8) (v : Byte) : (s.setR8 r v).tables = s.tables := by
  unfold State.setR8; split <;> rfl
@[simp] theorem State.setR8_status (r : Reg8) (v : Byte) : (s.setR8 r v).status = s.status := by
  unfold State.setR8; split <;> rfl
@[simp] theorem State.setR8_faults (r : Reg8) (v : Byte) : (s.setR8 r v).faults = s.faults := by
  unfold State.setR8; split <;> rfl
@[simp] theorem State.setR8_trace (r : Reg8) (v : Byte) : (s.setR8 r v).trace = s.trace := by
  unfold State.setR8; split <;> rfl
@[simp] theorem State.setR8_device (r : Reg8) (v : Byte) : (s.setR8 r v).device = s.device := by
  unfold State.setR8; split <;> rfl
@[simp] theorem State.setR8_lenCounts (r : Reg8) (v : Byte) : (s.setR8 r v).lenCounts = s.lenCounts := by
  unfold State.setR8; split <;> rfl
@[simp] theorem State.setR8_busLog (r : Reg8) (v : Byte) : (s.setR8 r v).busLog = s.busLog := by
  unfold State.setR8; split <;> rfl

end Updates

/-! ## Registers -/

@[simp] theorem Regs.get_set_self (g : Regs) (r : Reg16) (v : Word) : (g.set r v).get r = v := by
  cases r <;> rfl

theorem Regs.get_set_ne (g : Regs) {r r' : Reg16} (v : Word) (h : r' ≠ r) :
    (g.set r v).get r' = g.get r' := by
  cases r <;> cases r' <;> first | rfl | exact absurd rfl h

theorem State.r16_def (s : State) (r : Reg16) : s.r16 r = s.regs.get r := rfl

@[simp] theorem State.r16_setR16_self (s : State) (r : Reg16) (v : Word) : (s.setR16 r v).r16 r = v :=
  Regs.get_set_self _ _ _

theorem State.r16_setR16_ne (s : State) {r r' : Reg16} (v : Word) (h : r' ≠ r) :
    (s.setR16 r v).r16 r' = s.r16 r' := Regs.get_set_ne _ _ h

/-- A register read sees only the register file. -/
theorem State.r16_congr {s t : State} (h : t.regs = s.regs) (r : Reg16) : t.r16 r = s.r16 r := by
  simp [State.r16, h]

theorem State.r8_congr {s t : State} (h : t.regs = s.regs) (r : Reg8) : t.r8 r = s.r8 r := by
  simp [State.r8, State.r16, h]

/-! ## Bytes of a word -/

theorem getLsbD_wordOfBytes (lo hi : Byte) (i : Nat) :
    (wordOfBytes lo hi).getLsbD i = if i < 8 then lo.getLsbD i else hi.getLsbD (i - 8) := by
  refine (BitVec.getLsbD_append (x := hi) (y := lo) (i := i)).trans ?_
  split <;> simp_all

@[simp] theorem lowByte_wordOfBytes (lo hi : Byte) : lowByte (wordOfBytes lo hi) = lo := by
  unfold lowByte
  ext i h
  simp [getLsbD_wordOfBytes, h]

@[simp] theorem highByte_wordOfBytes (lo hi : Byte) : highByte (wordOfBytes lo hi) = hi := by
  unfold highByte
  ext i h
  simp [getLsbD_wordOfBytes, h]

@[simp] theorem wordOfBytes_low_high (w : Word) : wordOfBytes (lowByte w) (highByte w) = w := by
  unfold wordOfBytes lowByte highByte
  ext i h
  simp only [BitVec.getElem_append, BitVec.getElem_extractLsb']
  split
  · simp [BitVec.getLsbD_eq_getElem, h]
  · rw [Nat.add_sub_cancel' (by omega), BitVec.getLsbD_eq_getElem h]

/-! ## Register halves (R22) -/

@[simp] theorem State.r8_setR8_self (s : State) (r : Reg8) (v : Byte) : (s.setR8 r v).r8 r = v := by
  cases r <;> simp [State.r8, State.setR8, Reg8.isHigh, Reg8.parent]

/-- A half write changes no other half. -/
theorem State.r8_setR8_ne (s : State) {r r' : Reg8} (v : Byte) (h : r' ≠ r) :
    (s.setR8 r v).r8 r' = s.r8 r' := by
  cases r <;> cases r' <;>
    first
    | exact absurd rfl h
    | simp [State.r8, State.setR8, Reg8.isHigh, Reg8.parent, State.r16_setR16_ne]

/-- A half write changes no other 16-bit register. -/
theorem State.r16_setR8_ne (s : State) {r : Reg8} {r' : Reg16} (v : Byte) (h : r' ≠ r.parent) :
    (s.setR8 r v).r16 r' = s.r16 r' := by
  unfold State.setR8; split <;> exact State.r16_setR16_ne _ _ h

/-! ## Segments -/

@[simp] theorem Segs.get_set_self (g : Segs) (r : Seg) (d : SegDesc) : (g.set r d).get r = d := by
  cases r <;> rfl

theorem Segs.get_set_ne (g : Segs) {r r' : Seg} (d : SegDesc) (h : r' ≠ r) :
    (g.set r d).get r' = g.get r' := by
  cases r <;> cases r' <;> first | rfl | exact absurd rfl h

@[simp] theorem State.seg_setSeg_self (s : State) (g : Seg) (d : SegDesc) : (s.setSeg g d).seg g = d :=
  Segs.get_set_self _ _ _

theorem State.seg_setSeg_ne (s : State) {g g' : Seg} (d : SegDesc) (h : g' ≠ g) :
    (s.setSeg g d).seg g' = s.seg g' := Segs.get_set_ne _ _ h

theorem State.seg_congr {s t : State} (h : t.segs = s.segs) (g : Seg) : t.seg g = s.seg g := by
  simp [State.seg, h]

/-! ## Derived views under updates that do not touch them -/

theorem State.protectedMode_congr {s t : State} (h : t.cr0 = s.cr0) :
    t.protectedMode = s.protectedMode := by simp [State.protectedMode, h]

section Views

variable (s : State)

@[simp] theorem State.r16_setIp (v : Dword) (q : Reg16) : (s.setIp v).r16 q = s.r16 q := rfl
@[simp] theorem State.r8_setIp (v : Dword) (q : Reg8) : (s.setIp v).r8 q = s.r8 q := rfl
@[simp] theorem State.seg_setIp (v : Dword) (q : Seg) : (s.setIp v).seg q = s.seg q := rfl
@[simp] theorem State.protectedMode_setIp (v : Dword) :
    (s.setIp v).protectedMode = s.protectedMode := rfl
@[simp] theorem State.r16_setSizes (op addr : SizeMode) (q : Reg16) : (s.setSizes op addr).r16 q = s.r16 q := rfl
@[simp] theorem State.r8_setSizes (op addr : SizeMode) (q : Reg8) : (s.setSizes op addr).r8 q = s.r8 q := rfl
@[simp] theorem State.seg_setSizes (op addr : SizeMode) (q : Seg) : (s.setSizes op addr).seg q = s.seg q := rfl
@[simp] theorem State.protectedMode_setSizes (op addr : SizeMode) :
    (s.setSizes op addr).protectedMode = s.protectedMode := rfl
@[simp] theorem State.r16_setCtx (c : Ctx) (q : Reg16) : (s.setCtx c).r16 q = s.r16 q := rfl
@[simp] theorem State.r8_setCtx (c : Ctx) (q : Reg8) : (s.setCtx c).r8 q = s.r8 q := rfl
@[simp] theorem State.seg_setCtx (c : Ctx) (q : Seg) : (s.setCtx c).seg q = s.seg q := rfl
@[simp] theorem State.protectedMode_setCtx (c : Ctx) :
    (s.setCtx c).protectedMode = s.protectedMode := rfl
@[simp] theorem State.r16_setDeferredIe (b : Bool) (q : Reg16) : (s.setDeferredIe b).r16 q = s.r16 q := rfl
@[simp] theorem State.r8_setDeferredIe (b : Bool) (q : Reg8) : (s.setDeferredIe b).r8 q = s.r8 q := rfl
@[simp] theorem State.seg_setDeferredIe (b : Bool) (q : Seg) : (s.setDeferredIe b).seg q = s.seg q := rfl
@[simp] theorem State.protectedMode_setDeferredIe (b : Bool) :
    (s.setDeferredIe b).protectedMode = s.protectedMode := rfl
@[simp] theorem State.r16_setStatus (st : Status) (q : Reg16) : (s.setStatus st).r16 q = s.r16 q := rfl
@[simp] theorem State.r8_setStatus (st : Status) (q : Reg8) : (s.setStatus st).r8 q = s.r8 q := rfl
@[simp] theorem State.seg_setStatus (st : Status) (q : Seg) : (s.setStatus st).seg q = s.seg q := rfl
@[simp] theorem State.protectedMode_setStatus (st : Status) :
    (s.setStatus st).protectedMode = s.protectedMode := rfl
@[simp] theorem State.r16_setDevice (d : Device) (q : Reg16) : (s.setDevice d).r16 q = s.r16 q := rfl
@[simp] theorem State.r8_setDevice (d : Device) (q : Reg8) : (s.setDevice d).r8 q = s.r8 q := rfl
@[simp] theorem State.seg_setDevice (d : Device) (q : Seg) : (s.setDevice d).seg q = s.seg q := rfl
@[simp] theorem State.protectedMode_setDevice (d : Device) :
    (s.setDevice d).protectedMode = s.protectedMode := rfl
@[simp] theorem State.r16_emit (e : Event) (q : Reg16) : (s.emit e).r16 q = s.r16 q := rfl
@[simp] theorem State.r8_emit (e : Event) (q : Reg8) : (s.emit e).r8 q = s.r8 q := rfl
@[simp] theorem State.seg_emit (e : Event) (q : Seg) : (s.emit e).seg q = s.seg q := rfl
@[simp] theorem State.protectedMode_emit (e : Event) :
    (s.emit e).protectedMode = s.protectedMode := rfl
@[simp] theorem State.r16_recordFault (f : FaultRecord) (q : Reg16) : (s.recordFault f).r16 q = s.r16 q := rfl
@[simp] theorem State.r8_recordFault (f : FaultRecord) (q : Reg8) : (s.recordFault f).r8 q = s.r8 q := rfl
@[simp] theorem State.seg_recordFault (f : FaultRecord) (q : Seg) : (s.recordFault f).seg q = s.seg q := rfl
@[simp] theorem State.protectedMode_recordFault (f : FaultRecord) :
    (s.recordFault f).protectedMode = s.protectedMode := rfl
@[simp] theorem State.r16_logBus (c : BusCall) (q : Reg16) : (s.logBus c).r16 q = s.r16 q := rfl
@[simp] theorem State.r8_logBus (c : BusCall) (q : Reg8) : (s.logBus c).r8 q = s.r8 q := rfl
@[simp] theorem State.seg_logBus (c : BusCall) (q : Seg) : (s.logBus c).seg q = s.seg q := rfl
@[simp] theorem State.protectedMode_logBus (c : BusCall) :
    (s.logBus c).protectedMode = s.protectedMode := rfl
@[simp] theorem State.seg_setR16 (r : Reg16) (v : Word) (q : Seg) : (s.setR16 r v).seg q = s.seg q := rfl
@[simp] theorem State.protectedMode_setR16 (r : Reg16) (v : Word) :
    (s.setR16 r v).protectedMode = s.protectedMode := rfl
@[simp] theorem State.r16_setSeg (g : Seg) (d : SegDesc) (q : Reg16) : (s.setSeg g d).r16 q = s.r16 q := rfl
@[simp] theorem State.r8_setSeg (g : Seg) (d : SegDesc) (q : Reg8) : (s.setSeg g d).r8 q = s.r8 q := rfl
@[simp] theorem State.protectedMode_setSeg (g : Seg) (d : SegDesc) :
    (s.setSeg g d).protectedMode = s.protectedMode := rfl
@[simp] theorem State.r16_writeFlags (v : Word) (q : Reg16) : (s.writeFlags v).r16 q = s.r16 q := rfl
@[simp] theorem State.r8_writeFlags (v : Word) (q : Reg8) : (s.writeFlags v).r8 q = s.r8 q := rfl
@[simp] theorem State.seg_writeFlags (v : Word) (q : Seg) : (s.writeFlags v).seg q = s.seg q := rfl
@[simp] theorem State.protectedMode_writeFlags (v : Word) :
    (s.writeFlags v).protectedMode = s.protectedMode := rfl
@[simp] theorem State.r16_setCtxReg (n : Field3) (q : Reg16) : (s.setCtxReg n).r16 q = s.r16 q := rfl
@[simp] theorem State.r8_setCtxReg (n : Field3) (q : Reg8) : (s.setCtxReg n).r8 q = s.r8 q := rfl
@[simp] theorem State.seg_setCtxReg (n : Field3) (q : Seg) : (s.setCtxReg n).seg q = s.seg q := rfl
@[simp] theorem State.protectedMode_setCtxReg (n : Field3) :
    (s.setCtxReg n).protectedMode = s.protectedMode := rfl
@[simp] theorem State.r16_setOperand (o : Operand) (q : Reg16) : (s.setOperand o).r16 q = s.r16 q := rfl
@[simp] theorem State.r8_setOperand (o : Operand) (q : Reg8) : (s.setOperand o).r8 q = s.r8 q := rfl
@[simp] theorem State.seg_setOperand (o : Operand) (q : Seg) : (s.setOperand o).seg q = s.seg q := rfl
@[simp] theorem State.protectedMode_setOperand (o : Operand) :
    (s.setOperand o).protectedMode = s.protectedMode := rfl
@[simp] theorem State.seg_setR8 (r : Reg8) (v : Byte) (q : Seg) : (s.setR8 r v).seg q = s.seg q := by
  unfold State.setR8; split <;> rfl
@[simp] theorem State.protectedMode_setR8 (r : Reg8) (v : Byte) :
    (s.setR8 r v).protectedMode = s.protectedMode := by
  unfold State.setR8; split <;> rfl

end Views

/-! ## The reference RAM as a view of the device -/

theorem State.device_mem (s : State) : s.device.mem = s.mem := rfl

theorem State.mem_congr {s t : State} (h : t.device = s.device) : t.mem = s.mem := by
  simp [State.mem, h]

section MemView

variable (s : State)

@[simp] theorem State.setDevice_mem (d : Device) : (s.setDevice d).mem = d.mem := rfl
@[simp] theorem State.setIp_mem (v : Dword) : (s.setIp v).mem = s.mem := rfl
@[simp] theorem State.setSizes_mem (op addr : SizeMode) : (s.setSizes op addr).mem = s.mem := rfl
@[simp] theorem State.setCtx_mem (c : Ctx) : (s.setCtx c).mem = s.mem := rfl
@[simp] theorem State.setDeferredIe_mem (b : Bool) : (s.setDeferredIe b).mem = s.mem := rfl
@[simp] theorem State.setStatus_mem (st : Status) : (s.setStatus st).mem = s.mem := rfl
@[simp] theorem State.emit_mem (e : Event) : (s.emit e).mem = s.mem := rfl
@[simp] theorem State.recordFault_mem (f : FaultRecord) : (s.recordFault f).mem = s.mem := rfl
@[simp] theorem State.logBus_mem (c : BusCall) : (s.logBus c).mem = s.mem := rfl
@[simp] theorem State.setR16_mem (r : Reg16) (v : Word) : (s.setR16 r v).mem = s.mem := rfl
@[simp] theorem State.writeFlags_mem (v : Word) : (s.writeFlags v).mem = s.mem := rfl
@[simp] theorem State.setCtxReg_mem (n : Field3) : (s.setCtxReg n).mem = s.mem := rfl
@[simp] theorem State.setOperand_mem (o : Operand) : (s.setOperand o).mem = s.mem := rfl
@[simp] theorem State.setR8_mem (r : Reg8) (v : Byte) : (s.setR8 r v).mem = s.mem := by
  unfold State.setR8; split <;> rfl
@[simp] theorem State.setSeg_mem (g : Seg) (d : SegDesc) : (s.setSeg g d).mem = s.mem := rfl

end MemView

/-! ## What the ModRM decoder leaves in the context, as updates -/

@[simp] theorem State.selectRM_eq (s : State) (rm : RM) :
    s.selectRM rm = s.setOperand (selectOperand rm s) := rfl
@[simp] theorem State.takeNote_reg (s : State) (n : Field3) : s.takeNote (.reg n) = s.setCtxReg n := rfl
@[simp] theorem State.takeNote_operand (s : State) (rm : RM) :
    s.takeNote (.operand rm) = s.setOperand (selectOperand rm s) := rfl

end Sys2Proof.Machine
end

