-- ==== Sys2Proof/Laws/Decode.lean ====
section
/-! SUPPORT. Numbers, ModRM fields, and what the dispatch tables hold. -/

namespace Sys2Proof

/-! ## Numbers and their names -/

@[simp] theorem Reg16.ofField_toField (r : Reg16) : Reg16.ofField r.toField = r := by cases r <;> rfl

@[simp] theorem Reg16.toField_ofField (n : Field3) : (Reg16.ofField n).toField = n := by
  revert n; decide

@[simp] theorem Reg8.ofField_toField (r : Reg8) : Reg8.ofField r.toField = r := by cases r <;> rfl

@[simp] theorem Reg8.toField_ofField (n : Field3) : (Reg8.ofField n).toField = n := by
  revert n; decide

@[simp] theorem EaBase.ofField_toField (b : EaBase) : EaBase.ofField b.toField = b := by
  cases b <;> rfl

@[simp] theorem EaBase.toField_ofField (n : Field3) : (EaBase.ofField n).toField = n := by
  revert n; decide

/-- Only `[BP]` has the number that mod 0 gives to the direct form (R101). -/
theorem EaBase.toField_eq_six {b : EaBase} : b.toField = 6 ↔ b = .bp := by
  cases b <;> decide

theorem EaBase.ofField_eq_bp {n : Field3} : EaBase.ofField n = .bp ↔ n = 6 := by
  revert n; decide

/-! ## The fields of a ModRM byte and of an opcode byte (R92, R93) -/

@[simp] theorem modField_modrmByte (m : BitVec 2) (r n : Field3) : modField (modrmByte m r n) = m := by
  revert m r n; decide

@[simp] theorem regField_modrmByte (m : BitVec 2) (r n : Field3) : regField (modrmByte m r n) = r := by
  revert m r n; decide

@[simp] theorem rmField_modrmByte (m : BitVec 2) (r n : Field3) : rmField (modrmByte m r n) = n := by
  revert m r n; decide

/-- A byte is the ModRM byte of its fields. -/
@[simp] theorem modrmByte_fields (b : Byte) : modrmByte (modField b) (regField b) (rmField b) = b := by
  revert b; decide

@[simp] theorem rmField_opcodePlus (h : BitVec 5) (n : Field3) : rmField (opcodePlus h n) = n := by
  revert h n; decide

/-! ## Plans -/

/-- A plan that starts with the ModRM decoder reads the operand form, then goes on with its rest. -/
theorem modRMPlan_onBytes_of_decodeModRM {α : Type} (k : RM → Field3 → Plan α) {bs rest : List Byte}
    {rm : RM} {reg : Field3} (h : decodeModRM bs = some ((rm, reg), rest)) :
    (modRMPlan k).onBytes bs = (k rm reg).onBytes rest := by
  cases bs with
  | nil => simp [decodeModRM, modRMPlan, Plan.onBytes] at h
  | cons m bs =>
    simp only [decodeModRM, modRMPlan, Plan.onBytes] at h ⊢
    by_cases h3 : modField m = 3
    · simp only [h3, if_true, Plan.onBytes, Option.some.injEq, Prod.mk.injEq] at h ⊢
      obtain ⟨⟨rfl, rfl⟩, rfl⟩ := h; rfl
    · by_cases h0 : modField m = 0
      · by_cases h6 : rmField m = 6
        · simp only [h0, h6, if_true, if_neg (show ¬ (0 : BitVec 2) = 3 by decide)] at h ⊢
          match bs, h with
          | lo :: hi :: bs, h =>
            simp only [Plan.onBytes, Option.some.injEq, Prod.mk.injEq] at h ⊢
            obtain ⟨⟨rfl, rfl⟩, rfl⟩ := h; rfl
        · simp only [h0, h6, if_true, if_false, if_neg (show ¬ (0 : BitVec 2) = 3 by decide),
            Plan.onBytes, Option.some.injEq, Prod.mk.injEq] at h ⊢
          obtain ⟨⟨rfl, rfl⟩, rfl⟩ := h; rfl
      · by_cases h1 : modField m = 1
        · simp only [h1, if_true, if_neg (show ¬ (1 : BitVec 2) = 3 by decide),
            if_neg (show ¬ (1 : BitVec 2) = 0 by decide)] at h ⊢
          match bs, h with
          | d :: bs, h =>
            simp only [Plan.onBytes, Option.some.injEq, Prod.mk.injEq] at h ⊢
            obtain ⟨⟨rfl, rfl⟩, rfl⟩ := h; rfl
        · simp only [h3, h0, h1, if_false] at h ⊢
          match bs, h with
          | lo :: hi :: bs, h =>
            simp only [Plan.onBytes, Option.some.injEq, Prod.mk.injEq] at h ⊢
            obtain ⟨⟨rfl, rfl⟩, rfl⟩ := h; rfl

/-! ## The dispatch tables -/

theorem tableOf_getElem (f : Nat → TableEntry) (i : Nat) (h : i < 256) : (tableOf f)[i] = f i := by
  simp [tableOf]

/-- What a byte finds in built tables (R117 to R119). -/
theorem entry_buildTables (ds : List Descriptor) (inSecondary : Bool) (b : Byte) :
    (buildTables ds).entry inSecondary b =
      if inSecondary then slotEntry ds true .notRouted b.toNat
      else if b.toNat = 0x0F then .escapeRouter
      else slotEntry ds false .unhandled b.toNat := by
  cases inSecondary <;> simp [Tables.entry, buildTables, tableOf_getElem]

theorem slotEntry_cons (d : Descriptor) (ds : List Descriptor) (esc : Bool) (e : TableEntry) (i : Nat) :
    slotEntry (d :: ds) esc e i =
      slotEntry ds esc (if d.escape == esc && d.opcode.toNat == i then .handler d.handler16 else e) i :=
  rfl

/-- No baseline descriptor carries the escape flag, so every secondary entry is NOT_ROUTED (R96). -/
theorem entry_baseline_secondary (b : Byte) : baselineTables.entry true b = .notRouted := by
  unfold baselineTables
  rw [entry_buildTables, if_pos rfl]
  simp [slotEntry, baselineDescriptors, baselineRow]

end Sys2Proof
end

