-- ==== Sys2Proof/Laws/Memory.lean ====
section
/-! SUPPORT. The reference RAM: every write keeps the canonical form, a read after a write gives the
value written, and a write leaves every other byte alone. -/

namespace Sys2Proof.Machine

/-! ## The canonical form -/

theorem Memory.wfFrom_cons_iff (lo k : Nat) (v : Byte) (m : Memory) :
    Memory.wfFrom lo ((k, v) :: m) = true ↔
      lo ≤ k ∧ k < 2 ^ 32 ∧ v ≠ Config.unlistedByte ∧ Memory.wfFrom (k + 1) m = true := by
  simp [Memory.wfFrom, and_assoc]

theorem Memory.wfFrom_mono {lo lo' : Nat} (h : lo' ≤ lo) :
    ∀ {m : Memory}, Memory.wfFrom lo m = true → Memory.wfFrom lo' m = true
  | [], _ => rfl
  | (k, v) :: m, hm => by
    rw [Memory.wfFrom_cons_iff] at hm ⊢
    exact ⟨by omega, hm.2⟩

/-- Below its first address a canonical list reads as the unlisted byte. -/
theorem Memory.readAt_below {n : Nat} :
    ∀ {m : Memory} {lo : Nat}, Memory.wfFrom lo m = true → n < lo → m.readAt n = Config.unlistedByte
  | [], _, _, _ => rfl
  | (k, v) :: m, lo, hm, hn => by
    rw [Memory.wfFrom_cons_iff] at hm
    have hk : k ≠ n := by omega
    simp only [Memory.readAt, hk, if_false]
    exact Memory.readAt_below hm.2.2.2 (by omega)

theorem Memory.wfFrom_cons {lo n : Nat} (v : Byte) {m : Memory} (hlo : lo ≤ n) (hn : n < 2 ^ 32)
    (hm : Memory.wfFrom (n + 1) m = true) : Memory.wfFrom lo (Memory.cons n v m) = true := by
  unfold Memory.cons
  split
  · exact Memory.wfFrom_mono (by omega) hm
  · exact (Memory.wfFrom_cons_iff _ _ _ _).2 ⟨hlo, hn, ‹_›, hm⟩

theorem Memory.wfFrom_writeAt {n : Nat} (hn : n < 2 ^ 32) (v : Byte) :
    ∀ {m : Memory} {lo : Nat}, lo ≤ n → Memory.wfFrom lo m = true →
      Memory.wfFrom lo (m.writeAt n v) = true
  | [], _, hlo, _ => Memory.wfFrom_cons v hlo hn rfl
  | (k, w) :: m, lo, hlo, hm => by
    have hm' := (Memory.wfFrom_cons_iff _ _ _ _).1 hm
    unfold Memory.writeAt
    split
    · exact Memory.wfFrom_cons v hlo hn
        ((Memory.wfFrom_cons_iff _ _ _ _).2 ⟨by omega, hm'.2⟩)
    · split
      · subst n; exact Memory.wfFrom_cons v hlo hn hm'.2.2.2
      · exact (Memory.wfFrom_cons_iff _ _ _ _).2
          ⟨hm'.1, hm'.2.1, hm'.2.2.1, Memory.wfFrom_writeAt hn v (by omega) hm'.2.2.2⟩

theorem Memory.wf_nil : Memory.wf [] = true := rfl

theorem Memory.wf_write8 {m : Memory} (h : m.wf = true) (a : Dword) (v : Byte) :
    (m.write8 a v).wf = true := Memory.wfFrom_writeAt a.isLt v (Nat.zero_le _) h

theorem Memory.wf_write16 {m : Memory} (h : m.wf = true) (a : Dword) (v : Word) :
    (m.write16 a v).wf = true := Memory.wf_write8 (Memory.wf_write8 h _ _) _ _

theorem Memory.wf_write32 {m : Memory} (h : m.wf = true) (a : Dword) (v : Dword) :
    (m.write32 a v).wf = true :=
  Memory.wf_write8 (Memory.wf_write8 (Memory.wf_write8 (Memory.wf_write8 h _ _) _ _) _ _) _ _

theorem Memory.wf_writeBytes : ∀ {m : Memory} (a : Dword) (bs : List Byte), m.wf = true →
    (m.writeBytes a bs).wf = true
  | _, _, [], h => h
  | _, a, b :: bs, h => Memory.wf_writeBytes (a + 1) bs (Memory.wf_write8 h a b)

theorem State.reset_mem_wf : State.reset.mem.wf = true := rfl

/-! ## Reads after writes -/

theorem Memory.readAt_cons_self (n : Nat) (v : Byte) {m : Memory}
    (h : m.readAt n = Config.unlistedByte) : (Memory.cons n v m).readAt n = v := by
  unfold Memory.cons
  split
  · rw [h]; exact Eq.symm ‹_›
  · simp [Memory.readAt]

theorem Memory.readAt_cons_ne {n n' : Nat} (v : Byte) (m : Memory) (h : n' ≠ n) :
    (Memory.cons n v m).readAt n' = m.readAt n' := by
  unfold Memory.cons
  split
  · rfl
  · simp [Memory.readAt, h.symm]

theorem Memory.readAt_writeAt_self {n : Nat} (v : Byte) :
    ∀ {m : Memory} {lo : Nat}, Memory.wfFrom lo m = true → (m.writeAt n v).readAt n = v
  | [], _, _ => Memory.readAt_cons_self n v rfl
  | (k, w) :: m, lo, hm => by
    have hm' := (Memory.wfFrom_cons_iff _ _ _ _).1 hm
    unfold Memory.writeAt
    split
    · exact Memory.readAt_cons_self n v
        (Memory.readAt_below ((Memory.wfFrom_cons_iff _ _ _ _).2 ⟨le_refl k, hm'.2⟩) ‹_›)
    · split
      · subst n; exact Memory.readAt_cons_self k v (Memory.readAt_below hm'.2.2.2 (by omega))
      · have hk : k ≠ n := by omega
        simp only [Memory.readAt, hk, if_false]
        exact Memory.readAt_writeAt_self v hm'.2.2.2

theorem Memory.readAt_writeAt_ne {n n' : Nat} (v : Byte) (h : n' ≠ n) :
    ∀ m : Memory, (m.writeAt n v).readAt n' = m.readAt n'
  | [] => Memory.readAt_cons_ne v [] h
  | (k, w) :: m => by
    unfold Memory.writeAt
    split
    · exact Memory.readAt_cons_ne v _ h
    · split
      · subst n; rw [Memory.readAt_cons_ne v m h]; simp [Memory.readAt, h.symm]
      · simp only [Memory.readAt, Memory.readAt_writeAt_ne v h m]

theorem Memory.read8_write8_self {m : Memory} (h : m.wf = true) (a : Dword) (v : Byte) :
    (m.write8 a v).read8 a = v := Memory.readAt_writeAt_self v h

theorem Memory.read8_write8_ne (m : Memory) {a b : Dword} (v : Byte) (h : b ≠ a) :
    (m.write8 a v).read8 b = m.read8 b :=
  Memory.readAt_writeAt_ne v (fun hn => h (BitVec.eq_of_toNat_eq hn)) m

/-- Bytes 0 and 1 of a word are at different addresses, whatever the wrap-around. -/
theorem Dword.add_one_ne (a : Dword) : a + 1 ≠ a := by simp

theorem Memory.read8_write16_low {m : Memory} (h : m.wf = true) (a : Dword) (v : Word) :
    (m.write16 a v).read8 a = lowByte v := by
  unfold Memory.write16
  rw [Memory.read8_write8_ne _ _ (Dword.add_one_ne a).symm, Memory.read8_write8_self h]

theorem Memory.read8_write16_high {m : Memory} (h : m.wf = true) (a : Dword) (v : Word) :
    (m.write16 a v).read8 (a + 1) = highByte v :=
  Memory.read8_write8_self (Memory.wf_write8 h _ _) _ _

theorem Memory.read8_write16_ne (m : Memory) {a b : Dword} (v : Word) (h : b ≠ a) (h' : b ≠ a + 1) :
    (m.write16 a v).read8 b = m.read8 b := by
  unfold Memory.write16
  rw [Memory.read8_write8_ne _ _ h', Memory.read8_write8_ne _ _ h]

/-- A word read after the word's write gives the word. -/
theorem Memory.read16_write16 {m : Memory} (h : m.wf = true) (a : Dword) (v : Word) :
    (m.write16 a v).read16 a = v := by
  unfold Memory.read16
  rw [Memory.read8_write16_low h, Memory.read8_write16_high h, wordOfBytes_low_high]

end Sys2Proof.Machine
end

