-- ==== Sys2Proof/Laws/Device.lean ====
section
/-! SUPPORT. The device: what the reference bus answers, and that no call changes which bus there is. -/

namespace Sys2Proof.Machine

/-! ## The reference bus (R73) -/

section Reference

variable (m : Memory)

@[simp] theorem Device.mem_reference : (Device.reference m).mem = m := rfl
@[simp] theorem Device.readByte_reference (a : Dword) :
    (Device.reference m).readByte a = (m.read8 a, .reference m) := rfl
@[simp] theorem Device.writeByte_reference (a : Dword) (v : Byte) :
    (Device.reference m).writeByte a v = .reference (m.write8 a v) := rfl
@[simp] theorem Device.portReadByte_reference (p : Word) :
    (Device.reference m).portReadByte p = (0, .reference m) := rfl
@[simp] theorem Device.portWriteByte_reference (p : Word) (v : Byte) :
    (Device.reference m).portWriteByte p v = .reference m := rfl
@[simp] theorem Device.readWord_reference (a : Dword) :
    (Device.reference m).readWord a = (m.read16 a, .reference m) := rfl
@[simp] theorem Device.writeWord_reference (a : Dword) (v : Word) :
    (Device.reference m).writeWord a v = .reference (m.write16 a v) := rfl
@[simp] theorem Device.portReadWord_reference (p : Word) :
    (Device.reference m).portReadWord p = (0, .reference m) := rfl
@[simp] theorem Device.portWriteWord_reference (p : Word) (v : Word) :
    (Device.reference m).portWriteWord p v = .reference m := rfl
@[simp] theorem Device.readDword_reference (a : Dword) :
    (Device.reference m).readDword a = (m.read32 a, .reference m) := rfl
@[simp] theorem Device.writeDword_reference (a : Dword) (v : Dword) :
    (Device.reference m).writeDword a v = .reference (m.write32 a v) := rfl
@[simp] theorem Device.portReadDword_reference (p : Word) :
    (Device.reference m).portReadDword p = (0, .reference m) := rfl
@[simp] theorem Device.portWriteDword_reference (p : Word) (v : Dword) :
    (Device.reference m).portWriteDword p v = .reference m := rfl

end Reference

theorem State.onReference_iff {s : State} : s.onReference ↔ ∃ m, s.device = .reference m := by
  constructor
  · exact fun h => ⟨s.mem, h⟩
  · rintro ⟨m, h⟩
    unfold State.onReference State.mem
    rw [h, Device.mem_reference]

/-! ## What memory calls leave of the reference RAM, on any bus -/

/-- A read leaves the RAM as it was. -/
@[simp] theorem Device.mem_readByte (d : Device) (a : Dword) : (d.readByte a).2.mem = d.mem := by
  cases d <;> rfl

/-- A write keeps the canonical form. -/
theorem Device.wf_writeByte {d : Device} (h : d.mem.wf = true) (a : Dword) (v : Byte) :
    (d.writeByte a v).mem.wf = true := by
  cases d with
  | reference m => exact Memory.wf_write8 h a v
  | injected c => rfl

/-- A read leaves the RAM as it was. -/
@[simp] theorem Device.mem_readWord (d : Device) (a : Dword) : (d.readWord a).2.mem = d.mem := by
  cases d <;> rfl

/-- A write keeps the canonical form. -/
theorem Device.wf_writeWord {d : Device} (h : d.mem.wf = true) (a : Dword) (v : Word) :
    (d.writeWord a v).mem.wf = true := by
  cases d with
  | reference m => exact Memory.wf_write16 h a v
  | injected c => rfl

/-- A read leaves the RAM as it was. -/
@[simp] theorem Device.mem_readDword (d : Device) (a : Dword) : (d.readDword a).2.mem = d.mem := by
  cases d <;> rfl

/-- A write keeps the canonical form. -/
theorem Device.wf_writeDword {d : Device} (h : d.mem.wf = true) (a : Dword) (v : Dword) :
    (d.writeDword a v).mem.wf = true := by
  cases d with
  | reference m => exact Memory.wf_write32 h a v
  | injected c => rfl

/-- A byte write leaves every other byte of the RAM. -/
theorem Device.read8_writeByte_ne (d : Device) {a b : Dword} (v : Byte) (h : b ≠ a) :
    (d.writeByte a v).mem.read8 b = d.mem.read8 b := by
  cases d with
  | reference m => exact Memory.read8_write8_ne m v h
  | injected c => rfl

/-- A word write leaves every other byte of the RAM. -/
theorem Device.read8_writeWord_ne (d : Device) {a b : Dword} (v : Word) (h : b ≠ a) (h' : b ≠ a + 1) :
    (d.writeWord a v).mem.read8 b = d.mem.read8 b := by
  cases d with
  | reference m => exact Memory.read8_write16_ne m v h h'
  | injected c => rfl

/-- Which bus there is (R45). -/
def Device.isReference : Device → Bool
  | .reference _ => true
  | .injected _ => false

@[simp] theorem Device.isReference_readByte (d : Device) (a : Dword) :
    (d.readByte a).2.isReference = d.isReference := by cases d <;> rfl
@[simp] theorem Device.isReference_writeByte (d : Device) (a : Dword) (v : Byte) :
    (d.writeByte a v).isReference = d.isReference := by cases d <;> rfl
@[simp] theorem Device.isReference_readWord (d : Device) (a : Dword) :
    (d.readWord a).2.isReference = d.isReference := by cases d <;> rfl
@[simp] theorem Device.isReference_writeWord (d : Device) (a : Dword) (v : Word) :
    (d.writeWord a v).isReference = d.isReference := by cases d <;> rfl
@[simp] theorem Device.isReference_readDword (d : Device) (a : Dword) :
    (d.readDword a).2.isReference = d.isReference := by cases d <;> rfl
@[simp] theorem Device.isReference_writeDword (d : Device) (a : Dword) (v : Dword) :
    (d.writeDword a v).isReference = d.isReference := by cases d <;> rfl

end Sys2Proof.Machine
end

