-- ==== Sys2Proof/Laws/Ops.lean ====
section
/-! SUPPORT. What each shared operation does: in real mode it goes on with one state, in protected
mode a translation stops. The ModRM decoder and the operand fetches are summed up by `Fetched`. -/

namespace Sys2Proof.Machine

/-! ## Sequencing -/

@[simp] theorem Flow.bind_go {α β : Type} (v : α) (s : State) (f : α → State → Flow β) :
    (Flow.go v s).bind f = f v s := rfl

@[simp] theorem Flow.bind_ended {α β : Type} (s : State) (f : α → State → Flow β) :
    (Flow.ended s : Flow α).bind f = .ended s := rfl

@[simp] theorem Flow.bind_fault {α β : Type} (r : Fault) (f : α → State → Flow β) :
    (Flow.fault r : Flow α).bind f = .fault r := rfl

@[simp] theorem Flow.outcome_go {α : Type} (v : α) (s : State) : (Flow.go v s).outcome = .next s := rfl

@[simp] theorem Flow.outcome_ended {α : Type} (s : State) :
    (Flow.ended s : Flow α).outcome = .next s := rfl

@[simp] theorem Flow.outcome_fault {α : Type} (r : Fault) :
    (Flow.fault r : Flow α).outcome = .fault r := rfl

/-! ## Translation -/

theorem translate_real {s : State} (h : s.protectedMode = false) (g : Seg) (off : Dword)
    (k : AccessKind) : translate g off k s = .go ((s.seg g).base + off) s := by
  simp [translate, h]

theorem translate_protected {s : State} (h : s.protectedMode = true) (g : Seg) (off : Dword)
    (k : AccessKind) : translate g off k s = .ended (takeStop .protectedTranslation s) := by
  simp [translate, h, stopUnimplemented]

/-- The last-byte rule gives base plus offset in real mode (R66). -/
theorem physAddr_real {s : State} (h : s.protectedMode = false) (g : Seg) (off : Dword) (w : Width)
    (k : AccessKind) : physAddr g off w k s = .go ((s.seg g).base + off) s := by
  simp [physAddr, translate_real h, ← BitVec.add_assoc]

theorem physAddr_protected {s : State} (h : s.protectedMode = true) (g : Seg) (off : Dword)
    (w : Width) (k : AccessKind) :
    physAddr g off w k s = .ended (takeStop .protectedTranslation s) := by
  simp [physAddr, translate_protected h]

/-! ## Data access in real mode -/

section RealMode

variable {s : State} (h : s.protectedMode = false) (g : Seg) (off : Dword)
include h

theorem segRead8_real : segRead8 g off s =
    .go (busReadByte ((s.seg g).base + off) s).1 (busReadByte ((s.seg g).base + off) s).2 := by
  simp [segRead8, physAddr_real h]

theorem segRead16_real : segRead16 g off s =
    .go (busReadWord ((s.seg g).base + off) s).1 (busReadWord ((s.seg g).base + off) s).2 := by
  simp [segRead16, physAddr_real h]

theorem segRead32_real : segRead32 g off s =
    .go (busReadDword ((s.seg g).base + off) s).1 (busReadDword ((s.seg g).base + off) s).2 := by
  simp [segRead32, physAddr_real h]

theorem segWrite8_real (v : Byte) :
    segWrite8 g off v s = .go () (busWriteByte ((s.seg g).base + off) v s) := by
  simp [segWrite8, physAddr_real h]

theorem segWrite16_real (v : Word) :
    segWrite16 g off v s = .go () (busWriteWord ((s.seg g).base + off) v s) := by
  simp [segWrite16, physAddr_real h]

theorem segWrite32_real (v : Dword) :
    segWrite32 g off v s = .go () (busWriteDword ((s.seg g).base + off) v s) := by
  simp [segWrite32, physAddr_real h]

theorem loadSegment_real (sel : Word) :
    loadSegment g sel s = .go () (s.setSeg g (loadedSeg g sel (s.seg g))) := by
  simp [loadSegment, h]

end RealMode

/-! ## Instruction-stream fetches in real mode -/

theorem fetchCode8_real {s : State} (h : s.protectedMode = false) : fetchCode8 s =
    .go (codeByte s) ((busReadByte (codeAddress s) s).2.setIp (s.ip + 1)) := by
  simp [fetchCode8, physAddr_real h, codeByte, codeAddress, busReadByte]

theorem fetchCode16_real {s : State} (h : s.protectedMode = false) : fetchCode16 s =
    .go (busReadWord (codeAddress s) s).1 ((busReadWord (codeAddress s) s).2.setIp (s.ip + 2)) := by
  simp [fetchCode16, physAddr_real h, codeAddress, busReadWord]

theorem fetchCode8_protected {s : State} (h : s.protectedMode = true) :
    fetchCode8 s = .ended (takeStop .protectedTranslation s) := by
  simp [fetchCode8, physAddr_protected h]

theorem fetchCode16_protected {s : State} (h : s.protectedMode = true) :
    fetchCode16 s = .ended (takeStop .protectedTranslation s) := by
  simp [fetchCode16, physAddr_protected h]

/-! ## Accumulation -/

/-- While there is room a byte is stored (R114). -/
theorem Ctx.push_room {c : Ctx} (h : c.len < lengthLimit) (b : Byte) :
    c.push b = { c with bytes := c.bytes ++ [b] } := if_pos h

theorem Ctx.len_push_room {c : Ctx} (h : c.len < lengthLimit) (b : Byte) :
    (c.push b).len = c.len + 1 := by
  rw [Ctx.push_room h]; simp [Ctx.len]

/-- Below the guard's limit an append stores the byte and goes on. -/
theorem append_ok {b : Byte} {s : State} (h : s.ctx.len + 1 < lengthLimit) :
    append b s = .go () (s.setCtx { s.ctx with bytes := s.ctx.bytes ++ [b] }) := by
  have h1 : s.ctx.len < lengthLimit := by omega
  unfold append
  rw [Ctx.len_push_room h1, if_neg (by omega), Ctx.push_room h1]

/-- The tenth byte raises GP, itself stored (R116). -/
theorem append_tenth {b : Byte} {s : State} (h : s.ctx.len + 1 = lengthLimit) :
    append b s =
      .ended (catchFault gpFault (s.setCtx { s.ctx with bytes := s.ctx.bytes ++ [b] })) := by
  have h1 : s.ctx.len < lengthLimit := by omega
  unfold append
  rw [Ctx.len_push_room h1, if_pos h, Ctx.push_room h1]
  rfl

theorem appendAll_ok : ∀ {bs : List Byte} {s : State}, s.ctx.len + bs.length < lengthLimit →
    appendAll bs s = .go () (s.setCtx { s.ctx with bytes := s.ctx.bytes ++ bs })
  | [], s, _ => by simp [appendAll, State.setCtx]
  | b :: bs, s, h => by
    have h1 : s.ctx.len + 1 < lengthLimit := by simp only [List.length_cons] at h; omega
    have h2 : (s.setCtx { s.ctx with bytes := s.ctx.bytes ++ [b] }).ctx.len + bs.length
        < lengthLimit := by
      simp only [State.setCtx_ctx, Ctx.len, List.length_append, List.length_cons, List.length_nil]
        at h ⊢
      omega
    simp only [appendAll, append_ok h1, Flow.bind_go, appendAll_ok h2]
    simp [State.setCtx]

/-- Counting handler bytes below the limit. -/
theorem countOperandBytes_ok {bs : List Byte} {s : State}
    (h : s.lenCounts = true → s.ctx.len + bs.length < lengthLimit) :
    countOperandBytes bs s = .go () (s.setCtx { s.ctx with bytes :=
      if s.lenCounts then s.ctx.bytes ++ bs else s.ctx.bytes }) := by
  unfold countOperandBytes
  split
  · rw [appendAll_ok (h ‹_›)]
  · rfl

/-! ## Operand fetches that complete -/

theorem totalSize_append (ws ws' : List Width) :
    totalSize (ws ++ ws') = totalSize ws + totalSize ws' := by
  induction ws with
  | nil => simp [totalSize]
  | cons w ws ih => simp [totalSize, ih, Nat.add_assoc]

theorem bytesFrom_add (m : Memory) : ∀ (a b : Nat) (p : Dword),
    bytesFrom m (a + b) p = bytesFrom m a p ++ bytesFrom m b (p + BitVec.ofNat 32 a)
  | 0, b, p => by simp [bytesFrom]
  | a + 1, b, p => by
    rw [Nat.succ_add]
    simp only [bytesFrom, bytesFrom_add m a b, List.cons_append, BitVec.add_assoc]
    congr 4
    rw [BitVec.ofNat_add, BitVec.add_comm]; rfl

theorem codeReads_append (s : State) : ∀ (ws ws' : List Width) (off : Dword),
    codeReads s (ws ++ ws') off =
      codeReads s ws off ++ codeReads s ws' (off + BitVec.ofNat 32 (totalSize ws))
  | [], _, off => by simp [codeReads, totalSize]
  | w :: ws, ws', off => by
    have key : ∀ n : Nat, off + BitVec.ofNat 32 n + BitVec.ofNat 32 (totalSize ws) =
        off + BitVec.ofNat 32 (n + totalSize ws) := fun n => by
      rw [BitVec.ofNat_add, BitVec.add_assoc]
    cases w <;>
      simp only [List.cons_append, codeReads, codeReads_append s ws ws', totalSize, Width.size] <;>
      [rw [← key 1]; rw [← key 2]; rw [← key 4]] <;> rfl

/-- The bus calls of fetches depend only on the code segment and memory. -/
theorem codeReads_congr {s t : State} (hm : t.mem = s.mem) (hc : t.segs = s.segs) :
    ∀ (ws : List Width) (off : Dword), codeReads t ws off = codeReads s ws off
  | [], _ => rfl
  | w :: ws, off => by
    cases w <;> simp [codeReads, codeReads_congr hm hc ws, hm, State.seg_congr hc]

theorem Fetched.refl (s : State) : Fetched [] s s := by
  constructor <;> simp [totalSize, codeReads, bytesFrom]

theorem Fetched.mem {ws : List Width} {s t : State} (a : Fetched ws s t) : t.mem = s.mem :=
  State.mem_congr a.device

theorem Fetched.onReference {ws : List Width} {s t : State} (a : Fetched ws s t) (h : s.onReference) :
    t.onReference := by
  rw [State.onReference_iff] at h ⊢
  rw [a.device]
  exact h

theorem Fetched.codeAddress_eq {ws : List Width} {s t : State} (a : Fetched ws s t) :
    codeAddress t = codeAddress s + BitVec.ofNat 32 (totalSize ws) := by
  unfold codeAddress
  rw [a.ip, State.seg_congr a.segs, BitVec.add_assoc]

/-- Fetches follow one another. -/
theorem Fetched.trans {ws ws' : List Width} {s t u : State} (a : Fetched ws s t)
    (b : Fetched ws' t u) : Fetched (ws ++ ws') s u where
  ip := by rw [b.ip, a.ip, totalSize_append, BitVec.ofNat_add, BitVec.add_assoc]
  busLog := by
    rw [b.busLog, a.busLog, codeReads_append, codeReads_congr a.mem a.segs, a.ip, List.append_assoc]
  bytes := by
    rw [b.bytes, a.bytes, a.lenCounts, a.mem, totalSize_append, bytesFrom_add]
    unfold codeAddress
    rw [a.ip, State.seg_congr a.segs, BitVec.add_assoc]
    split <;> simp
  override := b.override.trans a.override
  regs := b.regs.trans a.regs
  segs := b.segs.trans a.segs
  flags := b.flags.trans a.flags
  cr0 := b.cr0.trans a.cr0
  opsize := b.opsize.trans a.opsize
  addrsize := b.addrsize.trans a.addrsize
  deferredIe := b.deferredIe.trans a.deferredIe
  tables := b.tables.trans a.tables
  status := b.status.trans a.status
  faults := b.faults.trans a.faults
  trace := b.trace.trans a.trace
  device := b.device.trans a.device
  lenCounts := b.lenCounts.trans a.lenCounts

/-- Writing the ModRM fields of the context is no fetch. -/
theorem Fetched.setCtxReg {ws : List Width} {s t : State} (a : Fetched ws s t) (n : Field3) :
    Fetched ws s (t.setCtxReg n) := by
  cases a; constructor <;> simpa

theorem Fetched.setOperand {ws : List Width} {s t : State} (a : Fetched ws s t) (o : Operand) :
    Fetched ws s (t.setOperand o) := by
  cases a; constructor <;> simpa

theorem Fetched.protectedMode {ws : List Width} {s t : State} (a : Fetched ws s t) :
    t.protectedMode = s.protectedMode := State.protectedMode_congr a.cr0

theorem Fetched.len {ws : List Width} {s t : State} (a : Fetched ws s t) :
    t.ctx.len = if s.lenCounts then s.ctx.len + totalSize ws else s.ctx.len := by
  have hb : ∀ (n : Nat) (p : Dword), (bytesFrom s.mem n p).length = n := by
    intro n; induction n with
    | zero => intro p; rfl
    | succ n ih => intro p; simp [bytesFrom, ih]
  simp only [Ctx.len, a.bytes]
  split <;> simp [hb]

/-- Fetches that fit leave room for the fetches that fit after them. -/
theorem Fetched.canFetch {ws : List Width} {s t : State} (a : Fetched ws s t) {n : Nat}
    (h : s.canFetch (totalSize ws + n)) : t.canFetch n := by
  refine ⟨a.protectedMode.trans h.1, fun hl => ?_⟩
  rw [a.lenCounts] at hl
  have := h.2 hl
  rw [a.len, if_pos hl]; omega

theorem State.canFetch.mono {s : State} {n m : Nat} (h : s.canFetch m) (hn : n ≤ m) : s.canFetch n :=
  ⟨h.1, fun hl => by have := h.2 hl; omega⟩

/-- On the reference bus an opcode-stage byte is the RAM's byte at `ip`. -/
theorem codeByte_reference {s : State} (hr : s.onReference) : codeByte s = s.mem.read8 (codeAddress s) := by
  unfold codeByte
  rw [hr, Device.readByte_reference]

theorem hFetch8_fetched {s : State} (hr : s.onReference) (h : s.canFetch 1) :
    ∃ t, hFetch8 s = .go (s.mem.read8 (codeAddress s)) t ∧ Fetched [.byte] s t ∧
      t.ctx.reg = s.ctx.reg ∧ t.ctx.operand = s.ctx.operand := by
  obtain ⟨m, hm⟩ := State.onReference_iff.mp hr
  have e : s.mem = m := by simp [State.mem, hm]
  simp only [hFetch8, fetchCode8_real h.1, Flow.bind_go, codeByte_reference hr]
  rw [countOperandBytes_ok (by simpa [busReadByte] using h.2)]
  refine ⟨_, rfl, ?_, rfl, rfl⟩
  constructor <;>
    simp [busReadByte, totalSize, Width.size, codeReads, bytesFrom, codeAddress, hm, e]

theorem hFetch16_fetched {s : State} (hr : s.onReference) (h : s.canFetch 2) :
    ∃ t, hFetch16 s = .go (s.mem.read16 (codeAddress s)) t ∧ Fetched [.word] s t ∧
      t.ctx.reg = s.ctx.reg ∧ t.ctx.operand = s.ctx.operand := by
  obtain ⟨m, hm⟩ := State.onReference_iff.mp hr
  have e : s.mem = m := by simp [State.mem, hm]
  have ev : (busReadWord (codeAddress s) s).1 = s.mem.read16 (codeAddress s) := by
    simp [busReadWord, hm, e]
  simp only [hFetch16, fetchCode16_real h.1, Flow.bind_go]
  rw [countOperandBytes_ok (by simpa [busReadWord] using h.2), ev]
  refine ⟨_, rfl, ?_, rfl, rfl⟩
  constructor <;>
    simp [busReadWord, totalSize, Width.size, codeReads, bytesFrom, codeAddress, Memory.read16, hm, e]

/-! ## Operand fetches that reach the tenth byte, on any bus (R115, R116) -/

section Tenth

variable {s : State} (hp : s.protectedMode = false) (hl : s.lenCounts = true)
include hp hl

theorem hFetch8_tenth (h : s.ctx.len + 1 = lengthLimit) :
    hFetch8 s = .ended (catchFault gpFault (((busReadByte (codeAddress s) s).2.setIp (s.ip + 1)).setCtx
      { s.ctx with bytes := s.ctx.bytes ++ [codeByte s] })) := by
  simp only [hFetch8, fetchCode8_real hp, Flow.bind_go, countOperandBytes]
  rw [if_pos (by simpa [busReadByte] using hl)]
  simp only [appendAll]
  rw [append_tenth (by simpa [busReadByte] using h)]
  simp [busReadByte]

/-- The low byte is the tenth. -/
theorem hFetch16_tenth_low (h : s.ctx.len + 1 = lengthLimit) :
    hFetch16 s = .ended (catchFault gpFault (((busReadWord (codeAddress s) s).2.setIp (s.ip + 2)).setCtx
      { s.ctx with bytes := s.ctx.bytes ++ [lowByte (s.device.readWord (codeAddress s)).1] })) := by
  simp only [hFetch16, fetchCode16_real hp, Flow.bind_go, countOperandBytes]
  rw [if_pos (by simpa [busReadWord] using hl)]
  simp only [appendAll]
  rw [append_tenth (by simpa [busReadWord] using h)]
  simp [busReadWord]

/-- The high byte is the tenth. -/
theorem hFetch16_tenth_high (h : s.ctx.len + 2 = lengthLimit) :
    hFetch16 s = .ended (catchFault gpFault (((busReadWord (codeAddress s) s).2.setIp (s.ip + 2)).setCtx
      { s.ctx with bytes := s.ctx.bytes ++ [lowByte (s.device.readWord (codeAddress s)).1,
        highByte (s.device.readWord (codeAddress s)).1] })) := by
  simp only [hFetch16, fetchCode16_real hp, Flow.bind_go, countOperandBytes]
  rw [if_pos (by simpa [busReadWord] using hl)]
  simp only [appendAll]
  rw [append_ok (by simp only [busReadWord, State.setIp_ctx, State.logBus_ctx, State.setDevice_ctx]; omega)]
  simp only [Flow.bind_go]
  rw [append_tenth (by simpa [busReadWord, Ctx.len] using h)]
  simp [busReadWord, State.setCtx]

end Tenth

/-! ## The ModRM decoder -/

theorem totalSize_rmFetches (rm : RM) : totalSize (rmFetches rm) = rm.size := by cases rm <;> rfl

/-- What a ModRM form selects depends only on registers and the override. -/
theorem selectOperand_congr {s t : State} (hr : t.regs = s.regs)
    (ho : t.ctx.override = s.ctx.override) (rm : RM) : selectOperand rm t = selectOperand rm s := by
  have hb : ∀ b, baseOffset b t = baseOffset b s := by
    intro b; cases b <;> simp [baseOffset, State.r16_congr hr]
  have hs : ∀ g, operandSeg g t = operandSeg g s := by intro g; simp [operandSeg, ho]
  cases rm <;> simp [selectOperand, hb, hs]

theorem Fetched.takeNote {ws : List Width} {s t : State} (a : Fetched ws s t) (n : CtxNote) :
    Fetched ws s (t.takeNote n) := by
  cases n with
  | reg n => exact a.setCtxReg n
  | operand rm => exact a.setOperand _

/-! ## Plans: what is read from bytes is what is fetched through the reference bus -/

/-- The fetches a plan makes on a list of bytes. -/
def planWidths {α : Type} : Plan α → List Byte → List Width
  | .done _, _ => []
  | .note _ p, bs => planWidths p bs
  | .byte next, bs =>
    match bs with
    | b :: rest => .byte :: planWidths (next b) rest
    | [] => []
  | .word next, bs =>
    match bs with
    | lo :: hi :: rest => .word :: planWidths (next (wordOfBytes lo hi)) rest
    | [_] => []
    | [] => []

/-- A plan that fits reads the same value through the reference bus as from the bytes at `ip`, and does
nothing but fetch (R75, R79, R115). -/
theorem fetchPlan_fetched {α : Type} : ∀ {p : Plan α} {s : State} {n : Nat} {v : α} {rest : List Byte},
    s.onReference → p.onBytes (bytesFrom s.mem n (codeAddress s)) = some (v, rest) →
    s.canFetch (totalSize (planWidths p (bytesFrom s.mem n (codeAddress s)))) →
    ∃ t, fetchPlan p s = .go v t ∧ Fetched (planWidths p (bytesFrom s.mem n (codeAddress s))) s t
  | .done w, s, n, v, rest, _, hd, _ => by
    simp only [Plan.onBytes, Option.some.injEq, Prod.mk.injEq] at hd
    obtain ⟨rfl, rfl⟩ := hd
    exact ⟨s, rfl, Fetched.refl s⟩
  | .note c p, s, n, v, rest, hr, hd, hc => by
    have f : Fetched [] s (s.takeNote c) := (Fetched.refl s).takeNote c
    have ha : codeAddress (s.takeNote c) = codeAddress s := by
      rw [f.codeAddress_eq]; exact BitVec.add_zero _
    simp only [Plan.onBytes] at hd
    simp only [planWidths] at hc
    have hc' : (s.takeNote c).canFetch (totalSize (planWidths p (bytesFrom s.mem n (codeAddress s)))) :=
      f.canFetch (by simpa [totalSize] using hc)
    obtain ⟨t, e, g⟩ := fetchPlan_fetched (p := p) (s := s.takeNote c) (n := n) (f.onReference hr)
      (by rw [f.mem, ha]; exact hd) (by rw [f.mem, ha]; exact hc')
    rw [f.mem, ha] at g
    exact ⟨t, e, f.trans g⟩
  | .byte next, s, 0, v, rest, _, hd, _ => by simp [Plan.onBytes, bytesFrom] at hd
  | .byte next, s, n + 1, v, rest, hr, hd, hc => by
    simp only [Plan.onBytes, bytesFrom] at hd
    simp only [planWidths, bytesFrom, totalSize] at hc
    obtain ⟨t, e, f, -, -⟩ := hFetch8_fetched hr (hc.mono (Nat.le_add_right _ _))
    have ha : codeAddress t = codeAddress s + 1 := f.codeAddress_eq
    obtain ⟨u, e', g⟩ := fetchPlan_fetched (p := next (s.mem.read8 (codeAddress s))) (s := t) (n := n)
      (f.onReference hr) (by rw [f.mem, ha]; exact hd) (by rw [f.mem, ha]; exact f.canFetch hc)
    rw [f.mem, ha] at g
    exact ⟨u, by rw [fetchPlan, e, Flow.bind_go, e'], by
      simp only [planWidths, bytesFrom]; exact f.trans g⟩
  | .word next, s, 0, v, rest, _, hd, _ => by simp [Plan.onBytes, bytesFrom] at hd
  | .word next, s, 1, v, rest, _, hd, _ => by simp [Plan.onBytes, bytesFrom] at hd
  | .word next, s, n + 2, v, rest, hr, hd, hc => by
    simp only [Plan.onBytes, bytesFrom] at hd
    simp only [planWidths, bytesFrom, totalSize] at hc
    obtain ⟨t, e, f, -, -⟩ := hFetch16_fetched hr (hc.mono (Nat.le_add_right _ _))
    have ha : codeAddress t = codeAddress s + 1 + 1 := by
      rw [f.codeAddress_eq, BitVec.add_assoc]; rfl
    obtain ⟨u, e', g⟩ := fetchPlan_fetched (p := next (s.mem.read16 (codeAddress s))) (s := t) (n := n)
      (f.onReference hr) (by rw [f.mem, ha]; exact hd) (by rw [f.mem, ha]; exact f.canFetch hc)
    rw [f.mem, ha] at g
    exact ⟨u, by rw [fetchPlan, e, Flow.bind_go, e'], by
      simp only [planWidths, bytesFrom]; exact f.trans g⟩

end Sys2Proof.Machine
end

