-- ==== Sys2Proof/Laws/Steady.lean ====
section
/-! SUPPORT. What every part of an instruction keeps, whatever it ends in: one relation, closed under
sequencing, with one lemma per shared operation. -/

namespace Sys2Proof.Machine

/-- Configuration, tables, modes, flags and limits are unchanged, and so is which bus there is; the
observation lists only grow; canonical memory and the context's bound are kept. -/
structure Steady (s t : State) : Prop where
  cr0 : t.cr0 = s.cr0
  flags : t.flags = s.flags
  opsize : t.opsize = s.opsize
  addrsize : t.addrsize = s.addrsize
  tables : t.tables = s.tables
  lenCounts : t.lenCounts = s.lenCounts
  limit : ∀ g, (t.seg g).limit = (s.seg g).limit
  defaultSize : (s.seg .cs).access.d = false → (t.seg .cs).access.d = false
  faults : s.faults <+: t.faults
  trace : s.trace <+: t.trace
  busLog : s.busLog <+: t.busLog
  isReference : t.device.isReference = s.device.isReference
  mem : s.mem.wf = true → t.mem.wf = true
  ctx : s.ctxBounded → t.ctxBounded

theorem Steady.refl (s : State) : Steady s s := by
  constructor <;> simp [State.ctxBounded]

theorem Steady.trans {s t u : State} (a : Steady s t) (b : Steady t u) : Steady s u where
  cr0 := b.cr0.trans a.cr0
  flags := b.flags.trans a.flags
  opsize := b.opsize.trans a.opsize
  addrsize := b.addrsize.trans a.addrsize
  tables := b.tables.trans a.tables
  lenCounts := b.lenCounts.trans a.lenCounts
  limit g := (b.limit g).trans (a.limit g)
  defaultSize h := b.defaultSize (a.defaultSize h)
  faults := a.faults.trans b.faults
  trace := a.trace.trans b.trace
  busLog := a.busLog.trans b.busLog
  isReference := b.isReference.trans a.isReference
  mem h := b.mem (a.mem h)
  ctx h := b.ctx (a.ctx h)

/-- Every state a part of an instruction leaves is steady over `s`. -/
def Flow.KeepsSteady {α : Type} (s : State) : Flow α → Prop
  | .go _ t => Steady s t
  | .ended t => Steady s t
  | .fault _ => True

theorem Flow.KeepsSteady.bind {α β : Type} {s : State} {x : Flow α} {f : α → State → Flow β}
    (hx : x.KeepsSteady s) (hf : ∀ v t, (f v t).KeepsSteady t) : (x.bind f).KeepsSteady s := by
  cases x with
  | go v t =>
    have hft := hf v t
    rw [Flow.bind_go]
    cases hy : f v t with
    | go w u => rw [hy] at hft; exact Steady.trans hx hft
    | ended u => rw [hy] at hft; exact Steady.trans hx hft
    | fault r => exact trivial
  | ended t => exact hx
  | fault r => exact trivial

/-- An instruction's outcome from a part that keeps steady. -/
theorem Flow.KeepsSteady.outcome {α : Type} {s t : State} {x : Flow α} (hx : x.KeepsSteady s)
    (h : x.outcome = .next t) : Steady s t := by
  cases x with
  | go v u => cases h; exact hx
  | ended u => cases h; exact hx
  | fault r => cases h

/-! ## Updates -/

theorem steady_setIp (s : State) (v : Dword) : Steady s (s.setIp v) := by constructor <;> simp [State.ctxBounded]

theorem steady_setR16 (s : State) (r : Reg16) (v : Word) : Steady s (s.setR16 r v) := by
  constructor <;> simp [State.ctxBounded]

theorem steady_setR8 (s : State) (r : Reg8) (v : Byte) : Steady s (s.setR8 r v) := by
  unfold State.setR8; split <;> exact steady_setR16 _ _ _

theorem steady_setCtx {s : State} {c : Ctx} (h : s.ctxBounded → c.len ≤ lengthLimit) :
    Steady s (s.setCtx c) := by
  constructor <;> simp [State.ctxBounded]
  exact h

theorem steady_emit (s : State) (e : Event) : Steady s (s.emit e) := by constructor <;> simp [State.ctxBounded]

theorem steady_logBus (s : State) (c : BusCall) : Steady s (s.logBus c) := by constructor <;> simp [State.ctxBounded]

theorem steady_setDeferredIe (s : State) (b : Bool) : Steady s (s.setDeferredIe b) := by
  constructor <;> simp [State.ctxBounded]

theorem steady_setDevice {s : State} {d : Device} (hi : d.isReference = s.device.isReference)
    (hm : s.mem.wf = true → d.mem.wf = true) : Steady s (s.setDevice d) := by
  constructor <;> simp [State.ctxBounded]
  · exact hi
  · exact hm

theorem steady_takeStop (r : StopReason) (s : State) : Steady s (takeStop r s) := by
  constructor <;> simp [takeStop, State.ctxBounded]

theorem steady_catchFault (f : FaultRecord) (s : State) : Steady s (catchFault f s) := by
  constructor <;> simp [catchFault, State.ctxBounded]

theorem steady_loadedSeg (s : State) (g : Seg) (sel : Word) :
    Steady s (s.setSeg g (loadedSeg g sel (s.seg g))) := by
  constructor <;> try simp [State.ctxBounded]
  · intro q
    by_cases h : q = g
    · subst h; simp [loadedSeg]
    · rw [State.seg_setSeg_ne _ _ h]
  · intro hd
    by_cases h : Seg.cs = g
    · subst h; simp [loadedSeg, accCodeER]
    · rw [State.seg_setSeg_ne _ _ h]; exact hd

/-! ## Operations -/

theorem steady_translate (g : Seg) (off : Dword) (k : AccessKind) (s : State) :
    (translate g off k s).KeepsSteady s := by
  unfold translate; split
  · exact steady_takeStop _ _
  · exact Steady.refl s

theorem steady_physAddr (g : Seg) (off : Dword) (w : Width) (k : AccessKind) (s : State) :
    (physAddr g off w k s).KeepsSteady s :=
  (steady_translate _ _ _ s).bind fun _ t => Steady.refl t

theorem steady_busReadByte (a : Dword) (s : State) : Steady s (busReadByte a s).2 :=
  (steady_setDevice (by simp) fun h => by simpa [State.mem] using h).trans (steady_logBus _ _)

theorem steady_busReadWord (a : Dword) (s : State) : Steady s (busReadWord a s).2 :=
  (steady_setDevice (by simp) fun h => by simpa [State.mem] using h).trans (steady_logBus _ _)

theorem steady_segRead8 (g : Seg) (off : Dword) (s : State) : (segRead8 g off s).KeepsSteady s :=
  (steady_physAddr _ _ _ _ s).bind fun a t => steady_busReadByte a t

theorem steady_segRead16 (g : Seg) (off : Dword) (s : State) : (segRead16 g off s).KeepsSteady s :=
  (steady_physAddr _ _ _ _ s).bind fun a t => steady_busReadWord a t

theorem steady_segWrite8 (g : Seg) (off : Dword) (v : Byte) (s : State) :
    (segWrite8 g off v s).KeepsSteady s :=
  (steady_physAddr _ _ _ _ s).bind fun _ _ =>
    (steady_setDevice (by simp) fun h => Device.wf_writeByte h _ _).trans (steady_logBus _ _)

theorem steady_segWrite16 (g : Seg) (off : Dword) (v : Word) (s : State) :
    (segWrite16 g off v s).KeepsSteady s :=
  (steady_physAddr _ _ _ _ s).bind fun _ _ =>
    (steady_setDevice (by simp) fun h => Device.wf_writeWord h _ _).trans (steady_logBus _ _)

theorem steady_fetchCode8 (s : State) : (fetchCode8 s).KeepsSteady s :=
  (steady_physAddr _ _ _ _ s).bind fun a t => (steady_busReadByte a t).trans (steady_setIp _ _)

theorem steady_fetchCode16 (s : State) : (fetchCode16 s).KeepsSteady s :=
  (steady_physAddr _ _ _ _ s).bind fun a t => (steady_busReadWord a t).trans (steady_setIp _ _)

theorem Ctx.len_push_le {c : Ctx} (h : c.len ≤ lengthLimit) (b : Byte) :
    (c.push b).len ≤ lengthLimit := by
  by_cases h1 : c.len < lengthLimit
  · rw [Ctx.len_push_room h1]; omega
  · rw [Ctx.push, if_neg h1]; exact h

theorem steady_append (b : Byte) (s : State) : (append b s).KeepsSteady s := by
  unfold append; split
  · exact (steady_setCtx fun h => Ctx.len_push_le h b).trans (steady_catchFault _ _)
  · exact steady_setCtx fun h => Ctx.len_push_le h b

theorem steady_appendAll : ∀ (bs : List Byte) (s : State), (appendAll bs s).KeepsSteady s
  | [], s => Steady.refl s
  | b :: bs, s => (steady_append b s).bind fun _ t => steady_appendAll bs t

theorem steady_countOperandBytes (bs : List Byte) (s : State) :
    (countOperandBytes bs s).KeepsSteady s := by
  unfold countOperandBytes; split
  · exact steady_appendAll bs s
  · exact Steady.refl s

theorem steady_hFetch8 (s : State) : (hFetch8 s).KeepsSteady s :=
  (steady_fetchCode8 s).bind fun _ t => (steady_countOperandBytes _ t).bind fun _ u => Steady.refl u

theorem steady_hFetch16 (s : State) : (hFetch16 s).KeepsSteady s :=
  (steady_fetchCode16 s).bind fun _ t => (steady_countOperandBytes _ t).bind fun _ u => Steady.refl u

theorem steady_opcodeFetch (s : State) : (opcodeFetch s).KeepsSteady s :=
  (steady_fetchCode8 s).bind fun _ t => (steady_append _ t).bind fun _ u => steady_emit u _

theorem steady_loadSegment (g : Seg) (sel : Word) (s : State) : (loadSegment g sel s).KeepsSteady s := by
  unfold loadSegment; split
  · exact steady_takeStop _ _
  · exact steady_loadedSeg s g sel

theorem steady_selectRM (s : State) (rm : RM) : Steady s (s.selectRM rm) :=
  steady_setCtx (c := { s.ctx with operand := selectOperand rm s }) id

theorem steady_takeNote (s : State) (n : CtxNote) : Steady s (s.takeNote n) := by
  cases n with
  | reg n => exact steady_setCtx (c := { s.ctx with reg := some n }) id
  | operand rm => exact steady_selectRM s rm

/-- A part that starts from a steady state is steady over what came before. -/
theorem Flow.KeepsSteady.after {α : Type} {s t : State} {x : Flow α} (h : Steady s t)
    (hx : x.KeepsSteady t) : x.KeepsSteady s := by
  cases x with
  | go v u => exact h.trans hx
  | ended u => exact h.trans hx
  | fault r => exact trivial

theorem steady_fetchPlan {α : Type} : ∀ (p : Plan α) (s : State), (fetchPlan p s).KeepsSteady s
  | .done _, s => Steady.refl s
  | .note n p, s => (steady_fetchPlan p (s.takeNote n)).after (steady_takeNote s n)
  | .byte next, s => (steady_hFetch8 s).bind fun v t => steady_fetchPlan (next v) t
  | .word next, s => (steady_hFetch16 s).bind fun v t => steady_fetchPlan (next v) t

theorem steady_readRM8 (s : State) : (readRM8 s).KeepsSteady s := by
  unfold readRM8; split
  · exact trivial
  · exact Steady.refl s
  · exact steady_segRead8 _ _ s

theorem steady_readRM16 (s : State) : (readRM16 s).KeepsSteady s := by
  unfold readRM16; split
  · exact trivial
  · exact Steady.refl s
  · exact steady_segRead16 _ _ s

theorem steady_writeRM8 (v : Byte) (s : State) : (writeRM8 v s).KeepsSteady s := by
  unfold writeRM8; split
  · exact trivial
  · exact steady_setR8 s _ _
  · exact steady_segWrite8 _ _ _ s

theorem steady_writeRM16 (v : Word) (s : State) : (writeRM16 v s).KeepsSteady s := by
  unfold writeRM16; split
  · exact trivial
  · exact steady_setR16 s _ _
  · exact steady_segWrite16 _ _ _ s

end Sys2Proof.Machine
end

