-- ==== Sys2Proof/Laws/Engine.lean ====
section
/-! SUPPORT. The engine's parts: the opcode fetch below and at the guard, what a handler fetches, one
unfolding of the opcode stage per kind of table entry. -/

namespace Sys2Proof.Machine

/-! ## What a handler fetches -/

theorem length_bytesFrom (m : Memory) : ∀ (n : Nat) (a : Dword), (bytesFrom m n a).length = n
  | 0, _ => rfl
  | n + 1, a => by simp [bytesFrom, length_bytesFrom m n]

theorem totalSize_operandFetches (i : Instr) : totalSize (operandFetches i) = i.operandBytes := by
  cases i with
  | movRm8Imm8 rm src => cases src <;> cases rm <;> rfl
  | movRm16Imm16 rm src => cases src <;> cases rm <;> rfl
  | movRm8R8 rm _ => exact totalSize_rmFetches rm
  | movRm16R16 rm _ => exact totalSize_rmFetches rm
  | movR8Rm8 _ rm => exact totalSize_rmFetches rm
  | movR16Rm16 _ rm => exact totalSize_rmFetches rm
  | movRm16Sreg rm _ => exact totalSize_rmFetches rm
  | movSregRm16 _ rm => exact totalSize_rmFetches rm
  | _ => rfl

/-- A plan that starts with the ModRM decoder fetches the form's bytes and then what its rest does. -/
theorem modRMPlan_onBytes {α : Type} {k : RM → Field3 → Plan α} {bs : List Byte} {v : α}
    {rest : List Byte} (h : (modRMPlan k).onBytes bs = some (v, rest)) :
    ∃ rm reg bs', (k rm reg).onBytes bs' = some (v, rest) ∧
      planWidths (modRMPlan k) bs = rmFetches rm ++ planWidths (k rm reg) bs' := by
  cases bs with
  | nil => simp [modRMPlan, Plan.onBytes] at h
  | cons m bs =>
    simp only [modRMPlan, Plan.onBytes] at h
    simp only [modRMPlan, planWidths]
    by_cases h3 : modField m = 3
    · simp only [h3, if_true, Plan.onBytes] at h ⊢
      exact ⟨_, _, bs, h, rfl⟩
    · by_cases h0 : modField m = 0
      · by_cases h6 : rmField m = 6
        · simp only [h0, h6, if_true, if_neg (show ¬ (0 : BitVec 2) = 3 by decide)] at h ⊢
          match bs, h with
          | lo :: hi :: bs, h =>
            simp only [Plan.onBytes] at h
            exact ⟨_, _, bs, h, rfl⟩
        · simp only [h0, h6, if_true, if_false, if_neg (show ¬ (0 : BitVec 2) = 3 by decide),
            Plan.onBytes] at h ⊢
          exact ⟨_, _, bs, h, rfl⟩
      · by_cases h1 : modField m = 1
        · simp only [h1, if_true, if_neg (show ¬ (1 : BitVec 2) = 3 by decide),
            if_neg (show ¬ (1 : BitVec 2) = 0 by decide)] at h ⊢
          match bs, h with
          | d :: bs, h =>
            simp only [Plan.onBytes] at h
            exact ⟨_, _, bs, h, rfl⟩
        · simp only [h3, h0, h1, if_false] at h ⊢
          match bs, h with
          | lo :: hi :: bs, h =>
            simp only [Plan.onBytes] at h
            exact ⟨_, _, bs, h, rfl⟩

/-- The fetches a handler's plan makes are those of the instruction it reads. -/
theorem planWidths_operandPlan {h : Handler} {b : Byte} {bs rest : List Byte} {i : Instr}
    (hd : decodeHandler h b bs = some (i, rest)) :
    planWidths (operandPlan h b) bs = operandFetches i := by
  unfold decodeHandler at hd
  have modrm : ∀ {k : RM → Field3 → Plan Instr},
      (∀ rm reg bs', (k rm reg).onBytes bs' = some (i, rest) →
        rmFetches rm ++ planWidths (k rm reg) bs' = operandFetches i) →
      (modRMPlan k).onBytes bs = some (i, rest) → planWidths (modRMPlan k) bs = operandFetches i := by
    intro k hk hb
    obtain ⟨rm, reg, bs', e, w⟩ := modRMPlan_onBytes hb
    rw [w, hk rm reg bs' e]
  have plain : ∀ {k : RM → Field3 → Instr}, (∀ rm reg, rmFetches rm = operandFetches (k rm reg)) →
      (modRMPlan fun rm reg => .done (k rm reg)).onBytes bs = some (i, rest) →
      planWidths (modRMPlan fun rm reg => .done (k rm reg)) bs = operandFetches i := fun hk =>
    modrm fun rm reg bs' e => by
      simp only [Plan.onBytes, Option.some.injEq, Prod.mk.injEq] at e
      rw [← e.1, ← hk rm reg, planWidths, List.append_nil]
  cases h with
  | override g =>
    simp only [operandPlan, Plan.onBytes, Option.some.injEq, Prod.mk.injEq] at hd
    rw [← hd.1]; cases g <;> rfl
  | movRm8R8 => exact plain (k := fun rm reg => .movRm8R8 rm (Reg8.ofField reg)) (fun _ _ => rfl) hd
  | movRm16R16 => exact plain (k := fun rm reg => .movRm16R16 rm (Reg16.ofField reg)) (fun _ _ => rfl) hd
  | movR8Rm8 => exact plain (k := fun rm reg => .movR8Rm8 (Reg8.ofField reg) rm) (fun _ _ => rfl) hd
  | movR16Rm16 => exact plain (k := fun rm reg => .movR16Rm16 (Reg16.ofField reg) rm) (fun _ _ => rfl) hd
  | movRm16Sreg => exact plain (k := fun rm reg => .movRm16Sreg rm reg) (fun _ _ => rfl) hd
  | movSregRm16 => exact plain (k := fun rm reg => .movSregRm16 reg rm) (fun _ _ => rfl) hd
  | movRm8Imm8 =>
    simp only [operandPlan] at hd ⊢
    refine modrm ?_ hd
    intro rm reg bs' e
    split at e
    · match bs', e with
      | v :: bs', e => cases e; simp [*, planWidths, operandFetches]
    · rename_i h0
      simp only [if_neg h0, planWidths, List.append_nil]
      cases e; rfl
  | movRm16Imm16 =>
    simp only [operandPlan] at hd ⊢
    refine modrm ?_ hd
    intro rm reg bs' e
    split at e
    · match bs', e with
      | lo :: hi :: bs', e => cases e; simp [*, planWidths, operandFetches]
    · rename_i h0
      simp only [if_neg h0, planWidths, List.append_nil]
      cases e; rfl
  | movR8Imm8 => match bs, hd with | v :: bs, hd => cases hd; rfl
  | movR16Imm16 => match bs, hd with | lo :: hi :: bs, hd => cases hd; rfl
  | jmpRel16 => match bs, hd with | lo :: hi :: bs, hd => cases hd; rfl
  | jmpPtr16 => match bs, hd with | a :: b :: c :: d :: bs, hd => cases hd; rfl
  | jmpRel8 => match bs, hd with | v :: bs, hd => cases hd; rfl
  | sti => cases hd; rfl

/-! ## The opcode fetch -/

theorem opcodeFetch_ok {s : State} (hp : s.protectedMode = false)
    (hl : s.ctx.len + 1 < lengthLimit) :
    opcodeFetch s = .go (codeByte s) (afterOpcodeByte s) := by
  simp only [opcodeFetch, fetchCode8_real hp, Flow.bind_go]
  rw [append_ok (by simpa [busReadByte] using hl)]
  rfl

theorem opcodeFetch_tenth {s : State} (hp : s.protectedMode = false)
    (hl : s.ctx.len + 1 = lengthLimit) : opcodeFetch s = .ended (afterTenthByte s) := by
  simp only [opcodeFetch, fetchCode8_real hp, Flow.bind_go]
  rw [append_tenth (by simpa [busReadByte] using hl)]
  rfl

theorem opcodeFetch_protected {s : State} (hp : s.protectedMode = true) :
    opcodeFetch s = .ended (takeStop .protectedTranslation s) := by
  simp [opcodeFetch, fetchCode8_protected hp]

/-! ## The state after an opcode byte on the reference bus, and at the start of a tick -/

theorem codeAddress_afterOpcodeByte (s : State) :
    codeAddress (afterOpcodeByte s) = codeAddress s + 1 := by
  simp [codeAddress, afterOpcodeByte, busReadByte, BitVec.add_assoc]

theorem afterOpcodeByte_device {s : State} (h : s.onReference) :
    (afterOpcodeByte s).device = s.device := by
  obtain ⟨m, hm⟩ := State.onReference_iff.mp h
  simp [afterOpcodeByte, busReadByte, hm]

@[simp] theorem afterOpcodeByte_mem (s : State) : (afterOpcodeByte s).mem = s.mem := by
  simp [afterOpcodeByte, busReadByte, State.device_mem]

theorem afterOpcodeByte_onReference {s : State} (h : s.onReference) :
    (afterOpcodeByte s).onReference := by
  rw [State.onReference_iff, afterOpcodeByte_device h, ← State.onReference_iff]
  exact h

section TickStart

variable (s : State)

@[simp] theorem tickStart_ip : (tickStart s).ip = s.ip := by
  unfold tickStart applyDeferredIe; split <;> rfl
@[simp] theorem tickStart_regs : (tickStart s).regs = s.regs := by
  unfold tickStart applyDeferredIe; split <;> rfl
@[simp] theorem tickStart_segs : (tickStart s).segs = s.segs := by
  unfold tickStart applyDeferredIe; split <;> rfl
@[simp] theorem tickStart_device : (tickStart s).device = s.device := by
  unfold tickStart applyDeferredIe; split <;> rfl
@[simp] theorem tickStart_ctx : (tickStart s).ctx = emptyCtx := by
  unfold tickStart applyDeferredIe; split <;> rfl
@[simp] theorem tickStart_cr0 : (tickStart s).cr0 = s.cr0 := by
  unfold tickStart applyDeferredIe; split <;> rfl
@[simp] theorem tickStart_tables : (tickStart s).tables = s.tables := by
  unfold tickStart applyDeferredIe; split <;> rfl
@[simp] theorem tickStart_status : (tickStart s).status = s.status := by
  unfold tickStart applyDeferredIe; split <;> rfl
@[simp] theorem tickStart_faults : (tickStart s).faults = s.faults := by
  unfold tickStart applyDeferredIe; split <;> rfl
@[simp] theorem tickStart_trace : (tickStart s).trace = s.trace := by
  unfold tickStart applyDeferredIe; split <;> rfl
@[simp] theorem tickStart_busLog : (tickStart s).busLog = s.busLog := by
  unfold tickStart applyDeferredIe; split <;> rfl
@[simp] theorem tickStart_lenCounts : (tickStart s).lenCounts = s.lenCounts := by
  unfold tickStart applyDeferredIe; split <;> rfl

end TickStart

/-! ## One unfolding of the opcode stage per kind of entry -/

theorem opcodeStage_unhandled {fuel : Nat} {sec : Bool} {s t : State} {b : Byte}
    (hf : opcodeFetch s = .go b t) (he : t.tables.entry sec b = .unhandled) :
    opcodeStage (fuel + 1) sec s = exec (.unhandled b) t := by
  simp only [opcodeStage, hf, he]

theorem opcodeStage_notRouted {fuel : Nat} {sec : Bool} {s t : State} {b : Byte}
    (hf : opcodeFetch s = .go b t) (he : t.tables.entry sec b = .notRouted) :
    opcodeStage (fuel + 1) sec s = exec (.escape b) t := by
  simp only [opcodeStage, hf, he]

theorem opcodeStage_router {fuel : Nat} {sec : Bool} {s t : State} {b : Byte}
    (hf : opcodeFetch s = .go b t) (he : t.tables.entry sec b = .escapeRouter) :
    opcodeStage (fuel + 1) sec s = opcodeStage fuel true t := by
  simp only [opcodeStage, hf, he]

theorem opcodeStage_handler {fuel : Nat} {sec : Bool} {s t u : State} {b : Byte} {h : Handler}
    {i : Instr} (hf : opcodeFetch s = .go b t) (he : t.tables.entry sec b = .handler h)
    (hp : fetchPlan (operandPlan h b) t = .go i u) :
    opcodeStage (fuel + 1) sec s =
      match exec i u with
      | .next v => if i.isPrefix then opcodeStage fuel false v else .next v
      | .fault q => .fault q
      | .refused q => .refused q := by
  cases hx : exec i u <;> simp only [opcodeStage, hf, he, hp, hx]

/-- A fault or a stop among the operand fetches ends the tick. -/
theorem opcodeStage_fetch_ended {fuel : Nat} {sec : Bool} {s t u : State} {b : Byte} {h : Handler}
    (hf : opcodeFetch s = .go b t) (he : t.tables.entry sec b = .handler h)
    (hp : fetchPlan (operandPlan h b) t = .ended u) : opcodeStage (fuel + 1) sec s = .next u := by
  simp only [opcodeStage, hf, he, hp]

theorem opcodeStage_ended {fuel : Nat} {sec : Bool} {s t : State}
    (hf : opcodeFetch s = .ended t) : opcodeStage (fuel + 1) sec s = .next t := by
  simp only [opcodeStage, hf]

end Sys2Proof.Machine
end

