-- ==== Sys2Proof/Laws/PerInstr.lean ====
section
/-! SUPPORT. Two families of facts about the instructions as syntax, one lemma per constructor: what
table entry the first byte of an encoding finds, and how long an encoding is. -/

namespace Sys2Proof.Laws

/-! ## The first byte of an encoding finds the instruction's own table entry (R95, R96, R117) -/

/-- The primary-table entry that stands for an instruction under the baseline map. -/
def entryOf : Instr → TableEntry
  | .segEs => .handler (.override .es)
  | .segCs => .handler (.override .cs)
  | .segSs => .handler (.override .ss)
  | .segDs => .handler (.override .ds)
  | .segFs => .handler (.override .fs)
  | .segGs => .handler (.override .gs)
  | .movRm8R8 _ _ => .handler .movRm8R8
  | .movRm16R16 _ _ => .handler .movRm16R16
  | .movR8Rm8 _ _ => .handler .movR8Rm8
  | .movR16Rm16 _ _ => .handler .movR16Rm16
  | .movRm16Sreg _ _ => .handler .movRm16Sreg
  | .movSregRm16 _ _ => .handler .movSregRm16
  | .movR8Imm8 _ _ => .handler .movR8Imm8
  | .movR16Imm16 _ _ => .handler .movR16Imm16
  | .movRm8Imm8 _ _ => .handler .movRm8Imm8
  | .movRm16Imm16 _ _ => .handler .movRm16Imm16
  | .jmpRel16 _ => .handler .jmpRel16
  | .jmpPtr16 _ _ => .handler .jmpPtr16
  | .jmpRel8 _ => .handler .jmpRel8
  | .sti => .handler .sti
  | .escape _ => .escapeRouter
  | .unhandled _ => .unhandled

/-- The first byte of a well-formed instruction's encoding finds that instruction's entry. -/
def OpcodeEntry.Statement (i : Instr) : Prop :=
  i.wellFormed = true → ∃ b bs, encode i = b :: bs ∧ baselineTables.entry false b = entryOf i

theorem OpcodeEntry.segEs : OpcodeEntry.Statement .segEs := fun _ => ⟨_, _, rfl, by decide⟩
theorem OpcodeEntry.segCs : OpcodeEntry.Statement .segCs := fun _ => ⟨_, _, rfl, by decide⟩
theorem OpcodeEntry.segSs : OpcodeEntry.Statement .segSs := fun _ => ⟨_, _, rfl, by decide⟩
theorem OpcodeEntry.segDs : OpcodeEntry.Statement .segDs := fun _ => ⟨_, _, rfl, by decide⟩
theorem OpcodeEntry.segFs : OpcodeEntry.Statement .segFs := fun _ => ⟨_, _, rfl, by decide⟩
theorem OpcodeEntry.segGs : OpcodeEntry.Statement .segGs := fun _ => ⟨_, _, rfl, by decide⟩

theorem OpcodeEntry.movRm8R8 (rm : RM) (reg : Reg8) : OpcodeEntry.Statement (.movRm8R8 rm reg) :=
  fun _ => ⟨_, _, rfl, show _ = TableEntry.handler .movRm8R8 by decide⟩

theorem OpcodeEntry.movRm16R16 (rm : RM) (reg : Reg16) :
    OpcodeEntry.Statement (.movRm16R16 rm reg) :=
  fun _ => ⟨_, _, rfl, show _ = TableEntry.handler .movRm16R16 by decide⟩

theorem OpcodeEntry.movR8Rm8 (reg : Reg8) (rm : RM) : OpcodeEntry.Statement (.movR8Rm8 reg rm) :=
  fun _ => ⟨_, _, rfl, show _ = TableEntry.handler .movR8Rm8 by decide⟩

theorem OpcodeEntry.movR16Rm16 (reg : Reg16) (rm : RM) :
    OpcodeEntry.Statement (.movR16Rm16 reg rm) :=
  fun _ => ⟨_, _, rfl, show _ = TableEntry.handler .movR16Rm16 by decide⟩

theorem OpcodeEntry.movRm16Sreg (rm : RM) (sreg : Field3) :
    OpcodeEntry.Statement (.movRm16Sreg rm sreg) :=
  fun _ => ⟨_, _, rfl, show _ = TableEntry.handler .movRm16Sreg by decide⟩

theorem OpcodeEntry.movSregRm16 (sreg : Field3) (rm : RM) :
    OpcodeEntry.Statement (.movSregRm16 sreg rm) :=
  fun _ => ⟨_, _, rfl, show _ = TableEntry.handler .movSregRm16 by decide⟩

theorem OpcodeEntry.movR8Imm8 (reg : Reg8) (imm : Byte) :
    OpcodeEntry.Statement (.movR8Imm8 reg imm) :=
  fun _ => ⟨_, _, rfl, show _ = TableEntry.handler .movR8Imm8 by cases reg <;> decide⟩

theorem OpcodeEntry.movR16Imm16 (reg : Reg16) (imm : Word) :
    OpcodeEntry.Statement (.movR16Imm16 reg imm) :=
  fun _ => ⟨_, _, rfl, show _ = TableEntry.handler .movR16Imm16 by cases reg <;> decide⟩

theorem OpcodeEntry.movRm8Imm8 (rm : RM) (src : ImmForm 8) :
    OpcodeEntry.Statement (.movRm8Imm8 rm src) :=
  fun _ => ⟨_, _, rfl, show _ = TableEntry.handler .movRm8Imm8 by decide⟩

theorem OpcodeEntry.movRm16Imm16 (rm : RM) (src : ImmForm 16) :
    OpcodeEntry.Statement (.movRm16Imm16 rm src) :=
  fun _ => ⟨_, _, rfl, show _ = TableEntry.handler .movRm16Imm16 by decide⟩

theorem OpcodeEntry.jmpRel16 (rel : Word) : OpcodeEntry.Statement (.jmpRel16 rel) :=
  fun _ => ⟨_, _, rfl, show _ = TableEntry.handler .jmpRel16 by decide⟩

theorem OpcodeEntry.jmpPtr16 (off sel : Word) : OpcodeEntry.Statement (.jmpPtr16 off sel) :=
  fun _ => ⟨_, _, rfl, show _ = TableEntry.handler .jmpPtr16 by decide⟩

theorem OpcodeEntry.jmpRel8 (rel : Byte) : OpcodeEntry.Statement (.jmpRel8 rel) :=
  fun _ => ⟨_, _, rfl, show _ = TableEntry.handler .jmpRel8 by decide⟩

theorem OpcodeEntry.sti : OpcodeEntry.Statement .sti := fun _ => ⟨_, _, rfl, by decide⟩

theorem OpcodeEntry.escape (b2 : Byte) : OpcodeEntry.Statement (.escape b2) :=
  fun _ => ⟨_, _, rfl, show _ = TableEntry.escapeRouter by decide⟩

/-- A slot that no descriptor names keeps its default (R119 a). -/
theorem slotEntry_unnamed {esc : Bool} {e : TableEntry} {i : Nat} :
    ∀ {ds : List Descriptor}, (∀ d ∈ ds, d.opcode.toNat ≠ i) → slotEntry ds esc e i = e
  | [], _ => rfl
  | d :: ds, h => by
    have hd : d.opcode.toNat ≠ i := h d (by simp)
    have hds : ∀ d' ∈ ds, d'.opcode.toNat ≠ i := fun d' m => h d' (by simp [m])
    rw [slotEntry_cons, slotEntry_unnamed hds, if_neg (by simp [hd])]

/-- The baseline list names mapped bytes only. -/
theorem baseline_opcodes_mapped :
    (baselineDescriptors.all fun d => mappedOpcodes.contains d.opcode) = true := by decide

theorem OpcodeEntry.unhandled (b : Byte) : OpcodeEntry.Statement (.unhandled b) := by
  intro h
  simp only [Instr.wellFormed, Bool.not_eq_true'] at h
  refine ⟨_, _, rfl, ?_⟩
  unfold baselineTables
  rw [entry_buildTables, if_neg (by decide), if_neg]
  · refine slotEntry_unnamed fun d hd e => ?_
    have hm := List.all_eq_true.mp baseline_opcodes_mapped d hd
    rw [BitVec.eq_of_toNat_eq e, h] at hm
    exact absurd hm (by decide)
  · intro e
    have hb : b = 0x0F := BitVec.eq_of_toNat_eq e
    subst hb
    exact absurd h (by decide)

/-! ## The length of an encoding (R90, R91) -/

/-- The bytes of the opcode stage: two after the escape, else one. -/
def opcodeBytes : Instr → Nat
  | .escape _ => 2
  | _ => 1

/-- An encoding is as long as its opcode bytes and the bytes its handler fetches. -/
def EncodedLength.Statement (i : Instr) : Prop :=
  (encode i).length = opcodeBytes i + i.operandBytes

theorem length_encodeModRM (rm : RM) (reg : Field3) : (encodeModRM rm reg).length = rm.size := by
  cases rm <;> rfl

theorem EncodedLength.segEs : EncodedLength.Statement .segEs := rfl
theorem EncodedLength.segCs : EncodedLength.Statement .segCs := rfl
theorem EncodedLength.segSs : EncodedLength.Statement .segSs := rfl
theorem EncodedLength.segDs : EncodedLength.Statement .segDs := rfl
theorem EncodedLength.segFs : EncodedLength.Statement .segFs := rfl
theorem EncodedLength.segGs : EncodedLength.Statement .segGs := rfl

theorem EncodedLength.movRm8R8 (rm : RM) (reg : Reg8) : EncodedLength.Statement (.movRm8R8 rm reg) := by
  cases rm <;> rfl

theorem EncodedLength.movRm16R16 (rm : RM) (reg : Reg16) :
    EncodedLength.Statement (.movRm16R16 rm reg) := by cases rm <;> rfl

theorem EncodedLength.movR8Rm8 (reg : Reg8) (rm : RM) : EncodedLength.Statement (.movR8Rm8 reg rm) := by
  cases rm <;> rfl

theorem EncodedLength.movR16Rm16 (reg : Reg16) (rm : RM) :
    EncodedLength.Statement (.movR16Rm16 reg rm) := by cases rm <;> rfl

theorem EncodedLength.movRm16Sreg (rm : RM) (sreg : Field3) :
    EncodedLength.Statement (.movRm16Sreg rm sreg) := by cases rm <;> rfl

theorem EncodedLength.movSregRm16 (sreg : Field3) (rm : RM) :
    EncodedLength.Statement (.movSregRm16 sreg rm) := by cases rm <;> rfl

theorem EncodedLength.movR8Imm8 (reg : Reg8) (imm : Byte) :
    EncodedLength.Statement (.movR8Imm8 reg imm) := rfl

theorem EncodedLength.movR16Imm16 (reg : Reg16) (imm : Word) :
    EncodedLength.Statement (.movR16Imm16 reg imm) := rfl

theorem EncodedLength.movRm8Imm8 (rm : RM) (src : ImmForm 8) :
    EncodedLength.Statement (.movRm8Imm8 rm src) := by
  simp [EncodedLength.Statement, encode, opcodeBytes, Instr.operandBytes, length_encodeModRM,
    Nat.add_comm]

theorem EncodedLength.movRm16Imm16 (rm : RM) (src : ImmForm 16) :
    EncodedLength.Statement (.movRm16Imm16 rm src) := by
  simp [EncodedLength.Statement, encode, opcodeBytes, Instr.operandBytes, length_encodeModRM,
    Nat.add_comm]

theorem EncodedLength.jmpRel16 (rel : Word) : EncodedLength.Statement (.jmpRel16 rel) := rfl
theorem EncodedLength.jmpPtr16 (off sel : Word) : EncodedLength.Statement (.jmpPtr16 off sel) := rfl
theorem EncodedLength.jmpRel8 (rel : Byte) : EncodedLength.Statement (.jmpRel8 rel) := rfl
theorem EncodedLength.sti : EncodedLength.Statement .sti := rfl
theorem EncodedLength.escape (b2 : Byte) : EncodedLength.Statement (.escape b2) := rfl
theorem EncodedLength.unhandled (b : Byte) : EncodedLength.Statement (.unhandled b) := rfl

end Sys2Proof.Laws
end

