-- ==== Sys2Proof/Machine/Asm.lean ====
section
/-! DEFINITION. The Intel notation of 30_encoding R102: notation only, read by no step. A form that the
spec gives no notation has none (log 23). -/

namespace Sys2Proof.Machine

/-- One hexadecimal digit. -/
def hexDigit (n : Nat) : String :=
  match n % 16 with
  | 0 => "0" | 1 => "1" | 2 => "2" | 3 => "3" | 4 => "4" | 5 => "5" | 6 => "6" | 7 => "7"
  | 8 => "8" | 9 => "9" | 10 => "A" | 11 => "B" | 12 => "C" | 13 => "D" | 14 => "E" | _ => "F"

/-- The last `digits` hexadecimal digits of `n`. -/
def hexDigits : Nat → Nat → String
  | 0, _ => ""
  | digits + 1, n => hexDigits digits (n / 16) ++ hexDigit n

/-- `0x42`. -/
def hexByte (b : Byte) : String := "0x" ++ hexDigits 2 b.toNat

/-- `0x1000`. -/
def hexWord (w : Word) : String := "0x" ++ hexDigits 4 w.toNat

def Reg16.text : Reg16 → String
  | .ax => "AX" | .cx => "CX" | .dx => "DX" | .bx => "BX"
  | .sp => "SP" | .bp => "BP" | .si => "SI" | .di => "DI"

def Reg8.text : Reg8 → String
  | .al => "AL" | .cl => "CL" | .dl => "DL" | .bl => "BL"
  | .ah => "AH" | .ch => "CH" | .dh => "DH" | .bh => "BH"

def Seg.text : Seg → String
  | .es => "ES" | .cs => "CS" | .ss => "SS" | .ds => "DS" | .fs => "FS" | .gs => "GS"

/-- Base and index, as the table of R101 writes them. -/
def EaBase.text : EaBase → String
  | .bxsi => "BX+SI" | .bxdi => "BX+DI" | .bpsi => "BP+SI" | .bpdi => "BP+DI"
  | .si => "SI" | .di => "DI" | .bp => "BP" | .bx => "BX"

/-- An 8-bit displacement with its sign (R94). -/
def disp8Text (d : Byte) : String := if d.msb then "-" ++ hexByte (-d) else "+" ++ hexByte d

/-- A memory operand in brackets, `none` for a register (R102). -/
def RM.memText : RM → Option String
  | .reg _ => none
  | .mem0 b => some ("[" ++ EaBase.text b ++ "]")
  | .direct d => some ("[" ++ hexWord d ++ "]")
  | .mem8 b d => some ("[" ++ EaBase.text b ++ disp8Text d ++ "]")
  | .mem16 b d => some ("[" ++ EaBase.text b ++ "+" ++ hexWord d ++ "]")

/-- The segment override before the bracket (R102). -/
def overrideText : Option Seg → String
  | none => ""
  | some g => Seg.text g ++ ":"

/-- An r/m operand: the register's name, or the width word, the override and the bracket. -/
def rmText (width regName : String) (ov : Option Seg) (rm : RM) : String :=
  match RM.memText rm with
  | none => regName
  | some m => width ++ overrideText ov ++ m

/-- The name of the register an r/m operand names, 8 bits wide; empty for memory. -/
def rmReg8Text : RM → String
  | .reg n => Reg8.text (Reg8.ofField n)
  | .mem0 _ => "" | .direct _ => "" | .mem8 _ _ => "" | .mem16 _ _ => ""

/-- The name of the register an r/m operand names, 16 bits wide; empty for memory. -/
def rmReg16Text : RM → String
  | .reg n => Reg16.text (Reg16.ofField n)
  | .mem0 _ => "" | .direct _ => "" | .mem8 _ _ => "" | .mem16 _ _ => ""

/-- `MOV destination, source` (R102: the destination comes first). -/
def movText (dst src : String) : String := "MOV " ++ dst ++ ", " ++ src

/-- The notation of an instruction under an override, `next` being the offset just after it (a
relative jump is written with its target offset, R102). -/
def asmText (ov : Option Seg) (next : Word) : Instr → Option String
  | .segEs => some "ES:"
  | .segCs => some "CS:"
  | .segSs => some "SS:"
  | .segDs => some "DS:"
  | .segFs => some "FS:"
  | .segGs => some "GS:"
  | .movRm8R8 rm r => some (movText (rmText "" (rmReg8Text rm) ov rm) (Reg8.text r))
  | .movRm16R16 rm r => some (movText (rmText "" (rmReg16Text rm) ov rm) (Reg16.text r))
  | .movR8Rm8 r rm => some (movText (Reg8.text r) (rmText "" (rmReg8Text rm) ov rm))
  | .movR16Rm16 r rm => some (movText (Reg16.text r) (rmText "" (rmReg16Text rm) ov rm))
  | .movRm16Sreg rm n =>
    (Seg.ofField n).map fun g => movText (rmText "" (rmReg16Text rm) ov rm) (Seg.text g)
  | .movSregRm16 n rm =>
    (Seg.ofField n).map fun g => movText (Seg.text g) (rmText "" (rmReg16Text rm) ov rm)
  | .movR8Imm8 r v => some (movText (Reg8.text r) (hexByte v))
  | .movR16Imm16 r v => some (movText (Reg16.text r) (hexWord v))
  | .movRm8Imm8 rm (.value v) =>
    some (movText (rmText "BYTE PTR " (rmReg8Text rm) ov rm) (hexByte v))
  | .movRm8Imm8 _ (.noMeaning _) => none
  | .movRm16Imm16 rm (.value v) =>
    some (movText (rmText "WORD PTR " (rmReg16Text rm) ov rm) (hexWord v))
  | .movRm16Imm16 _ (.noMeaning _) => none
  | .jmpRel16 d => some ("JMP " ++ hexWord (next + d))
  | .jmpPtr16 off sel => some ("JMP " ++ hexWord sel ++ ":" ++ hexWord off)
  | .jmpRel8 d => some ("JMP " ++ hexWord (next + d.signExtend 16))
  | .sti => some "STI"
  | .escape _ => none
  | .unhandled _ => none

end Sys2Proof.Machine
end

