-- ==== Sys2Proof/Tests/Slice0.lean ====
section
/-! SUPPORT. Tests: ill-formed terms are refused, words written out from 30_encoding decode, the
vectors of 95_test_vectors (one tick each), and a witness for the hypotheses of each statement. -/

namespace Sys2Proof.Tests

open Sys2Proof.Machine

/-! ## WellFormed refuses what no byte sequence encodes (R101, R156, R157, R95) -/

theorem test_wellFormed_bp_without_displacement :
    Instr.wellFormed (.movR8Rm8 .al (.mem0 .bp)) = false := by decide
theorem test_wellFormed_bp_in_every_operand_form :
    ([.movRm8R8 (.mem0 .bp) .al, .movRm16R16 (.mem0 .bp) .ax, .movR16Rm16 .ax (.mem0 .bp),
      .movRm16Sreg (.mem0 .bp) 0, .movSregRm16 0 (.mem0 .bp), .movRm8Imm8 (.mem0 .bp) (.value 0),
      .movRm16Imm16 (.mem0 .bp) (.value 0)].all fun i => !Instr.wellFormed i) = true := by decide
theorem test_wellFormed_c6_reg0_without_immediate :
    Instr.wellFormed (.movRm8Imm8 (.reg 0) (.noMeaning 0)) = false := by decide
theorem test_wellFormed_c7_reg0_without_immediate :
    Instr.wellFormed (.movRm16Imm16 (.reg 0) (.noMeaning 0)) = false := by decide
theorem test_wellFormed_unhandled_of_a_mapped_byte :
    Instr.wellFormed (.unhandled 0x88) = false ∧ Instr.wellFormed (.unhandled 0x0F) = false := by
  decide

/-! ## Words written bit by bit from the spec's encodings decode (30_encoding R92 to R95, R101) -/

theorem test_decode_overrides :
    decode baselineTables [0b00100110] = .ok (.segEs, []) ∧
    decode baselineTables [0b00101110] = .ok (.segCs, []) ∧
    decode baselineTables [0b00110110] = .ok (.segSs, []) ∧
    decode baselineTables [0b00111110] = .ok (.segDs, []) ∧
    decode baselineTables [0b01100100] = .ok (.segFs, []) ∧
    decode baselineTables [0b01100101] = .ok (.segGs, []) := by decide
/-- 88 /r: mod 01, reg 111 (BH), rm 010 ([BP+SI]), displacement FE. -/
theorem test_decode_movRm8R8 : decode baselineTables [0b10001000, 0b01111010, 0b11111110] =
    .ok (.movRm8R8 (.mem8 .bpsi 0xFE) .bh, []) := by decide
/-- 89 /r: mod 10, reg 100 (SP), rm 110 ([BP+d16]), displacement 34 12. -/
theorem test_decode_movRm16R16 : decode baselineTables [0b10001001, 0b10100110, 0x34, 0x12] =
    .ok (.movRm16R16 (.mem16 .bp 0x1234) .sp, []) := by decide
/-- 8A /r: mod 00, reg 101 (CH), rm 101 ([DI]). -/
theorem test_decode_movR8Rm8 : decode baselineTables [0b10001010, 0b00101101] =
    .ok (.movR8Rm8 .ch (.mem0 .di), []) := by decide
/-- 8B /r: mod 00, reg 001 (CX), rm 110 (direct), displacement 34 12. -/
theorem test_decode_movR16Rm16 : decode baselineTables [0b10001011, 0b00001110, 0x34, 0x12] =
    .ok (.movR16Rm16 .cx (.direct 0x1234), []) := by decide
/-- 8C /r: mod 11, reg 011 (DS), rm 110. -/
theorem test_decode_movRm16Sreg : decode baselineTables [0b10001100, 0b11011110] =
    .ok (.movRm16Sreg (.reg 6) 3, []) := by decide
/-- 8E /r: mod 11, reg 010 (SS), rm 001. -/
theorem test_decode_movSregRm16 : decode baselineTables [0b10001110, 0b11010001] =
    .ok (.movSregRm16 2 (.reg 1), []) := by decide
/-- B0+r: 10110 110, DH. -/
theorem test_decode_movR8Imm8 : decode baselineTables [0b10110110, 0xA5] =
    .ok (.movR8Imm8 .dh 0xA5, []) := by decide
/-- B8+r: 10111 110, SI. -/
theorem test_decode_movR16Imm16 : decode baselineTables [0b10111110, 0x34, 0x12] =
    .ok (.movR16Imm16 .si 0x1234, []) := by decide
/-- C6 /0: mod 00, reg 000, rm 011 ([BP+DI]); with reg 001 no immediate belongs to it. -/
theorem test_decode_movRm8Imm8 :
    decode baselineTables [0b11000110, 0b00000011, 0x99] =
      .ok (.movRm8Imm8 (.mem0 .bpdi) (.value 0x99), []) ∧
    decode baselineTables [0b11000110, 0b11001000, 0x99] =
      .ok (.movRm8Imm8 (.reg 0) (.noMeaning 1), [0x99]) := by decide
/-- C7 /0: mod 01, reg 000, rm 111 ([BX+d8]); with reg 111 no immediate belongs to it. -/
theorem test_decode_movRm16Imm16 :
    decode baselineTables [0b11000111, 0b01000111, 0xFE, 0x34, 0x12] =
      .ok (.movRm16Imm16 (.mem8 .bx 0xFE) (.value 0x1234), []) ∧
    decode baselineTables [0b11000111, 0b11111000] =
      .ok (.movRm16Imm16 (.reg 0) (.noMeaning 7), []) := by decide
theorem test_decode_jmpRel16 : decode baselineTables [0b11101001, 0x00, 0xF0] =
    .ok (.jmpRel16 0xF000, []) := by decide
/-- EA: offset word, then selector word. -/
theorem test_decode_jmpPtr16 : decode baselineTables [0b11101010, 0x00, 0x01, 0x00, 0x10] =
    .ok (.jmpPtr16 0x0100 0x1000, []) := by decide
theorem test_decode_jmpRel8 : decode baselineTables [0b11101011, 0xFE] =
    .ok (.jmpRel8 0xFE, []) := by decide
theorem test_decode_sti : decode baselineTables [0b11111011] = .ok (.sti, []) := by decide
theorem test_decode_escape : decode baselineTables [0b00001111, 0x0F] =
    .ok (.escape 0x0F, []) := by decide
theorem test_decode_unhandled : decode baselineTables [0b10010000] = .ok (.unhandled 0x90, []) := by
  decide
theorem test_decode_truncated : decode baselineTables [0xB8, 0x34] = .error .truncated := by decide

/-! ## One tick at a time (95_test_vectors) -/

/-- T0 with `ip` 0x0100, so code stands at physical 0x00FF0100. -/
def x0 : State := { State.reset with ip := 0x0100 }

/-- `x0` with one 16-bit register set. -/
def xReg (r : Reg16) (v : Word) : State := x0.setR16 r v

/-- A state with the base of one segment set. -/
def withBase (g : Seg) (b : Dword) (s : State) : State := s.setSeg g { s.seg g with base := b }

/-- What a view shows after one tick on the given code bytes. -/
def look {α : Type} (bs : List Byte) (s : State) (view : State → α) : Option α :=
  match step (placeCode bs s) with
  | .next t => some (view t)
  | .fault _ => none
  | .refused _ => none

/-- DS at 0x00020000, where most vectors put it. -/
def ds2 (s : State) : State := withBase .ds 0x00020000 s

/-- SS at 0x00030000. -/
def ss3 (s : State) : State := withBase .ss 0x00030000 s

/-- Bytes placed at a physical address. -/
def poke (a : Dword) (bs : List Byte) (s : State) : State := s.setDevice (.reference (s.mem.writeBytes a bs))

/-- V1: nine overrides pass, the tenth byte raises GP. -/
theorem test_V1_ten_overrides : look (List.replicate 10 0x26) x0
    (fun t => (t.ip, t.faults, t.trace.length)) =
      some (0x010A, [⟨.hardwareFault, some 13, 0x0000, true⟩], 10) := by decide
/-- V3: an unhandled byte in tenth place is not dispatched. -/
theorem test_V3_tenth_byte_is_not_dispatched : look (List.replicate 9 0x26 ++ [0x90]) x0
    (fun t => (t.ip, t.faults, t.trace.getLast?)) =
      some (0x010A, [gpFault], some (.faultReported gpFault)) := by decide
/-- V4: handler bytes count only when LEN_COUNTS_OPERAND_BYTES is set. -/
theorem test_V4_operand_bytes_count_by_configuration :
    look (List.replicate 8 0x2E ++ [0xB8, 0x34, 0x12]) x0 (fun t => (t.r16 .ax, t.ip, t.faults)) =
      some (0x1234, 0x010B, []) ∧
    look (List.replicate 8 0x2E ++ [0xB8, 0x34, 0x12]) { x0 with lenCounts := true }
      (fun t => (t.r16 .ax, t.ip, t.faults)) = some (0x0000, 0x010B, [gpFault]) := by decide
/-- R115, R116: a later operand byte is the tenth, here the immediate's low byte after five overrides. -/
theorem test_later_operand_byte_is_the_tenth :
    look (List.replicate 5 0x2E ++ [0xC7, 0x06, 0x00, 0x01, 0x34, 0x12]) { x0 with lenCounts := true }
      (fun t => (t.ip, t.faults, t.ctx.bytes.length, t.mem.read8 0x00FF0100)) =
        some (0x010B, [gpFault], 10, 0x2E) := by decide
/-- V5: the escape's second byte in tenth place is GP, not NOT_ROUTED. -/
theorem test_V5_escape_at_the_guard : look (List.replicate 8 0x26 ++ [0x0F, 0x05]) x0
    (fun t => (t.ip, t.faults)) = some (0x010A, [gpFault]) := by decide
/-- V20. -/
theorem test_V20_unhandled : look [0x90] x0 (fun t => (t.ip, t.trace, t.faults)) =
    some (0x0101, [.decoded 0xF000 0x0100 0x90, .unhandled 0xF000 0x0100 0x90], []) := by decide
/-- V22. -/
theorem test_V22_not_routed : look [0x0F, 0x05] x0 (fun t => (t.ip, t.faults)) =
    some (0x0102, [⟨.notRouted, none, 0x0005, false⟩]) := by decide
/-- V25: a 32-bit code segment stops the tick before the deferred enable. -/
theorem test_V25_size_stop : look [0x90]
    { (x0.setSeg .cs { x0.seg .cs with access := ⟨true, true, false, true⟩ }) with deferredIe := true }
    (fun t => (t.status, t.ip, t.interruptEnable, t.deferredIe, t.busLog)) =
      some (.stopped .size32, 0x0100, false, true, []) := by decide
/-- V26, V27: protected mode stops at the first fetch, and nothing runs after. -/
theorem test_V26_protected_mode : look [0x90] { x0 with cr0 := 0x0000FFF1 }
    (fun t => (t.status, t.ip, t.ctx.len, t.busLog)) =
      some (.stopped .protectedTranslation, 0x0100, 0, []) := by decide

/-- V30: ES override. -/
theorem test_V30_override_selects_the_segment :
    look [0x26, 0x8B, 0x07] (poke 0x00010004 [0xCD, 0xAB] (withBase .es 0x00010000 (xReg .bx 0x0004)))
      (fun t => (t.r16 .ax, t.ip, t.busLog.getLast?)) =
        some (0xABCD, 0x0103, some (.read .word 0x00010004 0xABCD)) := by decide
/-- V31: the last override wins. -/
theorem test_V31_last_override_wins :
    look [0x3E, 0x36, 0x8B, 0x07] (poke 0x00030004 [0x11, 0x22] (poke 0x00020004 [0x33, 0x44]
      (ss3 (ds2 (xReg .bx 0x0004))))) (fun t => (t.r16 .ax, t.ip)) = some (0x2211, 0x0104) := by decide
/-- V32's form with each of CS, FS and GS as the override (R125). -/
theorem test_cs_fs_gs_overrides :
    look [0x2E, 0x8B, 0x0E, 0x34, 0x12] (poke 0x00FF1234 [0xEF, 0xBE] x0) (fun t => t.r16 .cx) =
      some 0xBEEF ∧
    look [0x64, 0x8B, 0x0E, 0x34, 0x12] (poke 0x00051234 [0xEF, 0xBE] (withBase .fs 0x00050000 x0))
      (fun t => t.r16 .cx) = some 0xBEEF ∧
    look [0x65, 0x8B, 0x0E, 0x34, 0x12] (poke 0x00061234 [0xEF, 0xBE] (withBase .gs 0x00060000 x0))
      (fun t => t.r16 .cx) = some 0xBEEF := by decide
/-- V33: [BP+2] is in SS by default, in DS under an override. -/
theorem test_V33_bp_defaults_to_ss :
    look [0x8A, 0x46, 0x02] (poke 0x00030012 [0x55] (poke 0x00020012 [0x66] (ss3 (ds2
      (xReg .bp 0x0010))))) (fun t => t.r8 .al) = some 0x55 ∧
    look [0x3E, 0x8A, 0x4E, 0x02] (poke 0x00030012 [0x55] (poke 0x00020012 [0x66] (ss3 (ds2
      (xReg .bp 0x0010))))) (fun t => t.r8 .cl) = some 0x66 := by decide
/-- V34, V35, V36: the address wraps modulo 2^16, with a negative displacement and a 16-bit one. -/
theorem test_V34_address_wraps :
    look [0x8A, 0x00] (poke 0x00020001 [0x9A] (ds2 ((xReg .bx 0xFFFF).setR16 .si 0x0002)))
      (fun t => t.r8 .al) = some 0x9A ∧
    look [0x8A, 0x47, 0xFF] (poke 0x0002FFFF [0x7E] (ds2 x0)) (fun t => t.r8 .al) = some 0x7E ∧
    look [0x8B, 0x87, 0x00, 0x80] (poke 0x00021000 [0x01, 0x02] (ds2 (xReg .bx 0x9000)))
      (fun t => t.r16 .ax) = some 0x0201 := by decide
/-- V37, V38. -/
theorem test_V37_register_form_makes_no_data_access :
    look [0x8B, 0xC3] (xReg .bx 0x4321) (fun t => (t.r16 .ax, t.busLog.length)) =
      some (0x4321, 2) ∧
    look [0x8A, 0x03] (poke 0x00030101 [0x42] (ss3 ((xReg .bp 0x0100).setR16 .di 0x0001)))
      (fun t => t.r8 .al) = some 0x42 := by decide

/-- V10a, V10b: only the named half changes. -/
theorem test_V10_register_halves :
    look [0xB4, 0x13] (xReg .ax 0x0042) (fun t => (t.r16 .ax, t.ip)) = some (0x1342, 0x0102) ∧
    look [0xB7, 0x00] (xReg .bx 0xFFFF) (fun t => t.r16 .bx) = some 0x00FF := by decide
/-- V11, V11a. -/
theorem test_V11_word_immediates :
    look [0xBB, 0x00, 0x20] x0 (fun t => (t.r16 .bx, t.ip)) = some (0x2000, 0x0103) ∧
    look [0xBC, 0xFE, 0xFF] x0 (fun t => t.r16 .sp) = some 0xFFFE := by decide
/-- V12, V12a. -/
theorem test_V12_movRm8R8 :
    look [0x88, 0x07] (ds2 ((xReg .bx 0x0010).setR16 .ax 0x005A))
      (fun t => (t.mem.read8 0x00020010, t.busLog.getLast?)) =
        some (0x5A, some (.write .byte 0x00020010 0x5A)) ∧
    look [0x88, 0xE0] (xReg .ax 0x1200) (fun t => t.r16 .ax) = some 0x1212 := by decide
/-- V13a: a word store does not wrap inside the segment. -/
theorem test_V13a_word_store_crosses_64K :
    look [0x89, 0x07] (ds2 ((xReg .bx 0xFFFF).setR16 .ax 0xA1B2))
      (fun t => (t.mem.read8 0x0002FFFF, t.mem.read8 0x00030000, t.mem.read8 0x00020000)) =
        some (0xB2, 0xA1, 0x00) := by decide
/-- V14a. -/
theorem test_V14a_movR8Rm8 : look [0x8A, 0xC4] (xReg .ax 0x9900) (fun t => t.r16 .ax) =
    some 0x9999 := by decide
/-- V15, V15a: the address uses the register as it was. -/
theorem test_V15_movR16Rm16 :
    look [0x8B, 0x0E, 0x34, 0x12] (poke 0x00021234 [0xEF, 0xBE] (ds2 x0))
      (fun t => (t.r16 .cx, t.ip)) = some (0xBEEF, 0x0104) ∧
    look [0x8B, 0x1F] (poke 0x00020100 [0x00, 0x07] (ds2 (xReg .bx 0x0100))) (fun t => t.r16 .bx) =
      some 0x0700 := by decide
/-- V16, V16a. -/
theorem test_V16_movRm8Imm8 :
    look [0xC6, 0x06, 0x00, 0x01, 0x99] (ds2 x0) (fun t => (t.mem.read8 0x00020100, t.ip)) =
      some (0x99, 0x0105) ∧
    look [0xC6, 0xC8, 0x99] x0 (fun t => (t.status, t.ip, t.r16 .ax)) =
      some (.stopped .c6Reg, 0x0102, 0x0000) := by decide
/-- V17, and the stop of R157. -/
theorem test_V17_movRm16Imm16 :
    look [0xC7, 0x47, 0xFE, 0x34, 0x12] (ds2 (xReg .bx 0x0001))
      (fun t => (t.mem.read8 0x0002FFFF, t.mem.read8 0x00030000, t.ip)) =
        some (0x34, 0x12, 0x0105) ∧
    look [0xC7, 0xF8] x0 (fun t => (t.status, t.ip)) = some (.stopped .c7Reg, 0x0102) := by decide
/-- V18, V18b. -/
theorem test_V18_movRm16Sreg :
    look [0x8C, 0xC8] x0 (fun t => (t.r16 .ax, t.ip)) = some (0xF000, 0x0102) ∧
    look [0x8C, 0xF0] x0 (fun t => (t.status, t.ip)) = some (.stopped .sregRead, 0x0102) := by decide
/-- V19a. -/
theorem test_V19a_movSregRm16_cs : look [0x8E, 0xC8] x0 (fun t => (t.status, t.seg .cs, t.ip)) =
    some (.stopped .sregWrite, resetCs, 0x0102) := by decide
/-- V19b, V19c: the source is read through the old segment. -/
theorem test_V19_movSregRm16 :
    look [0x8E, 0x1F] (poke 0x00020000 [0x00, 0x30] (ds2 x0)) (fun t => t.seg .ds) =
      some ⟨0x3000, 0x00030000, 0xFFFF, accDefault⟩ ∧
    look [0x8E, 0xD0] (xReg .ax 0xB800) (fun t => t.seg .ss) =
      some ⟨0xB800, 0x000B8000, 0xFFFF, accDefault⟩ := by decide

/-- V40b, V40c: backwards, and past a 16-bit wrap. -/
theorem test_V40_jmpRel8 :
    look [0xEB, 0x80] x0 (fun t => t.ip) = some 0x0082 ∧
    look [0xEB, 0x10] { x0 with ip := 0x0000FFFE } (fun t => t.ip) = some 0x0010 := by decide
/-- V41, V41b. -/
theorem test_V41_jmpRel16 :
    look [0xE9, 0x00, 0x01] x0 (fun t => t.ip) = some 0x0203 ∧
    look [0xE9, 0x00, 0xF0] { x0 with ip := 0x0010 } (fun t => t.ip) = some 0xF013 := by decide
/-- V42: from reset itself. -/
theorem test_V42_jmpPtr16 : look [0xEA, 0x00, 0x01, 0x00, 0x10] State.reset
    (fun t => (t.seg .cs, t.ip, codeAddress t)) =
      some (⟨0x1000, 0x00010000, 0xFFFF, accCodeER⟩, 0x0100, 0x00010100) := by decide
/-- V43, first tick: the flag is pending, flags not written. -/
theorem test_V43_sti_pending : look [0xFB] x0 (fun t => (t.flags, t.deferredIe, t.ip)) =
    some (0x0002, true, 0x0101) := by decide
/-- V43, V43a, second tick: IF is set before the fetch, whatever the instruction does. -/
theorem test_V43_sti_takes_effect :
    look [0xB0, 0x01] { x0 with deferredIe := true } (fun t => (t.flags, t.deferredIe, t.r8 .al)) =
      some (0x0202, false, 0x01) ∧
    look [0x0F, 0x05] { x0 with deferredIe := true } (fun t => (t.interruptEnable, t.faults.length)) =
      some (true, 1) := by decide

/-! ## Memory and ports (V50, V51, V52) -/

theorem test_V50_word_read_does_not_wrap :
    (match segRead16 .ds 0x0000FFFF (ds2 x0) with
      | .go _ t => t.busLog
      | _ => []) = [.read .word 0x0002FFFF 0x0000] := by decide
theorem test_V51_dword_write :
    (match segWrite32 .ds 0x1000 0x11223344 (ds2 x0) with
      | .go _ t => (t.mem, t.busLog)
      | _ => ([], [])) =
    ([(0x21000, 0x44), (0x21001, 0x33), (0x21002, 0x22), (0x21003, 0x11)],
      [.write .dword 0x00021000 0x11223344]) := by decide
theorem test_V52_port_read : (portReadByte 0x0060 x0).1 = 0x00 := by decide
theorem test_memory_forgets_the_unlisted_byte :
    Memory.write8 (Memory.write8 [] 5 0x11) 5 Config.unlistedByte = [] := by decide

/-! ## An injected device context: its answers, and no other, are what the machine uses (R69, R70) -/

/-- `x0` with an injected device context. -/
def xInj : State := { x0 with device := .injected 7 }

theorem test_injected_fetch_is_the_operand :
    (match fetchPlan (operandPlan .movR8Imm8 0xB0) xInj with
      | .go i t => some (i, t.device, t.ip)
      | _ => none) =
    some (.movR8Imm8 .al (Config.readByte 7 0x00FF0100).1,
      .injected (Config.readByte 7 0x00FF0100).2, 0x0101) := rfl
theorem test_injected_data_read :
    (match exec (.movR16Rm16 .cx (.direct 0x1234)) xInj with
      | .next t => some (t.r16 .cx, t.device)
      | _ => none) =
    some ((Config.readWord 7 0x00001234).1, .injected (Config.readWord 7 0x00001234).2) := rfl

/-! ## The opcode table's words, placed where the first step fetches -/

/-- C6 /0 as the table writes it (match 0xC600): the stream is C6, then 00, then zeros. -/
theorem test_decodeTableWord :
    decodeTableWord 16 0xC600 = some (.movRm8Imm8 (.mem0 .bxsi) (.value 0)) ∧
    decodeTableWord 16 0x0F05 = some (.escape 0x05) ∧ decodeTableWord 8 0xFB = some .sti := by decide
theorem test_withFetchWord_runs_first :
    (match step (State.reset.withFetchWord 8 0xFB) with
      | .next t => some (t.deferredIe, t.ip)
      | _ => none) = some (true, 0x0000FFF1) := by decide

/-! ## `run` -/

/-- R244: a fault does not end a run, a stop does. -/
theorem test_run_goes_past_a_fault :
    (match run 2 (placeCode [0x0F, 0x05, 0x8E, 0xC8, 0xB0, 0x01] x0) with
      | .next t => some (t.ip, t.faults.length, t.status)
      | _ => none) = some (0x0104, 1, .stopped .sregWrite) := by decide

/-! ## Notation (R102; the programs P1 and P2 of 95_test_vectors) -/

theorem test_asm_notation :
    asmText none 0x0102 (.movR8Imm8 .al 0x42) = some "MOV AL, 0x42" ∧
    asmText none 0xFFF5 (.jmpPtr16 0x0000 0x2000) = some "JMP 0x2000:0x0000" ∧
    asmText (some .es) 0x0015 (.movRm8Imm8 (.direct 0x0010) (.value 0xA5)) =
      some "MOV BYTE PTR ES:[0x0010], 0xA5" ∧
    asmText none 0x0109 (.movRm16R16 (.mem0 .bx) .ax) = some "MOV [BX], AX" ∧
    asmText none 0x010D (.jmpRel8 0xFE) = some "JMP 0x010B" := by decide

/-! ## Witnesses: states and operands that meet the hypotheses of each statement together -/

/-- `x0` in protected mode. -/
def xProt : State := { x0 with cr0 := 0x0000FFF1 }

/-- `x0` with handler bytes counted and `n` bytes accumulated. -/
def xCount (n : Nat) : State :=
  { x0 with lenCounts := true, ctx := ⟨List.replicate n 0x26, some .es, none, .none⟩ }

/-- `x0` with a 32-bit code segment. -/
def x32 : State := x0.setSeg .cs { x0.seg .cs with access := ⟨true, true, false, true⟩ }

/-- `x0` after a stop. -/
def xStopped : State := { x0 with status := .stopped .c6Reg }

/-- Whether an outcome is a next state. -/
def isNext : Host.Outcome State Fault Refusal → Bool
  | .next _ => true
  | .fault _ => false
  | .refused _ => false

theorem next_of_isNext {o : Host.Outcome State Fault Refusal} (h : isNext o = true) :
    ∃ t, o = .next t := by
  cases o with
  | next t => exact ⟨t, rfl⟩
  | fault r => cases h
  | refused r => cases h

/-- The largest operand that fits at the guard: `n` counted bytes and `9 - n` more. -/
theorem canFetch_at_the_guard (n : Nat) (h : n ≤ 9) : (xCount n).canFetch (9 - n) := by
  refine ⟨show x0.protectedMode = false by decide, fun _ => ?_⟩
  have e : (xCount n).ctx.len = n := by simp [xCount, Ctx.len]
  rw [e]
  simp only [lengthLimit]
  omega

theorem witness_RegisterHalvesAliasTheirParent :
    (3 : Field3).toNat < 4 ∧ 4 ≤ (4 : Field3).toNat ∧ 4 ≤ (7 : Field3).toNat ∧
    Reg16.cx ≠ Reg8.al.parent := by decide
theorem witness_BothHalvesMakeTheRegister : (0 : Field3).toNat < 4 ∧ (3 : Field3).toNat < 4 := by decide
theorem witness_LoadSegmentInRealMode :
    x0.protectedMode = false ∧ Seg.ds ≠ Seg.cs ∧ xProt.protectedMode = true := by decide
theorem witness_LoadSegmentInProtectedModeStops : xProt.protectedMode = true := by decide
theorem witness_ProtectedModeTranslationStops : xProt.protectedMode = true := by decide
theorem witness_RealModeAddressIsBasePlusOffset : x0.protectedMode = false := by decide
theorem witness_DataAccessIsOneBusCall :
    physAddr .ds 0xFFFFFFFF .byte .read (ds2 x0) = .go 0x0001FFFF (ds2 x0) ∧
    physAddr .ds 0x0000FFFF .word .read (ds2 x0) = .go 0x0002FFFF (ds2 x0) ∧
    physAddr .ds 0xFFFFFFFE .dword .read (ds2 x0) = .go 0x0001FFFE (ds2 x0) ∧
    physAddr .ds 0 .byte .write (ds2 x0) = .go 0x00020000 (ds2 x0) ∧
    physAddr .ds 0xFFFFFFFF .word .write (ds2 x0) = .go 0x0001FFFF (ds2 x0) ∧
    physAddr .ds 0x1000 .dword .write (ds2 x0) = .go 0x00021000 (ds2 x0) := ⟨rfl, rfl, rfl, rfl, rfl, rfl⟩
theorem witness_CodeFetchAdvancesIp :
    ({ x0 with ip := 0xFFFFFFFF }).protectedMode = false ∧ xInj.protectedMode = false ∧
    (0x00FEFFFF : Dword) = (({ x0 with ip := 0xFFFFFFFF }).seg .cs).base +
      ({ x0 with ip := 0xFFFFFFFF }).ip := by decide
theorem witness_DwordWriteIsLittleEndian :
    Memory.wf [(0, 0x11), (0xFFFFFFFF, 0x22)] = true ∧
    (1 : Dword) ∉ [(0xFFFFFFFF : Dword), 0xFFFFFFFF + 1] ∧
    (3 : Dword) ∉ [(0xFFFFFFFF : Dword), 0xFFFFFFFF + 1, 0xFFFFFFFF + 2, 0xFFFFFFFF + 3] := by decide
theorem witness_CanonicalMemoriesReadingAlikeAreEqual :
    Memory.wf [(5, 0x11)] = true ∧
    Memory.wf (Memory.write8 [(3, 0x22), (5, 0x11)] 3 Config.unlistedByte) = true ∧
    ∀ a : Dword, Memory.read8 [(5, 0x11)] a =
      Memory.read8 (Memory.write8 [(3, 0x22), (5, 0x11)] 3 Config.unlistedByte) a :=
  ⟨by decide, by decide, fun _ => rfl⟩
theorem witness_ReferencePortsReadZero : x0.onReference := rfl
theorem witness_StoredCodeByteIsFetched :
    (xCount 8).onReference ∧ (xCount 8).protectedMode = false ∧ (xCount 8).mem.wf = true ∧
    (xCount 8).ctx.len + 1 < lengthLimit := ⟨rfl, by decide, by decide, by decide⟩
theorem witness_DecodeOfEncode :
    Instr.wellFormed (.movRm16Imm16 (.mem16 .bp 0xFFFF) (.value 0x1234)) = true ∧
    Instr.wellFormed (.movRm8Imm8 (.mem0 .bx) (.noMeaning 7)) = true ∧
    Instr.wellFormed (.unhandled 0xFF) = true := by decide
theorem witness_EncodeOfDecode :
    decode baselineTables [0xC6, 0x06, 0x00, 0x01, 0x99, 0x90] =
      .ok (.movRm8Imm8 (.direct 0x0100) (.value 0x99), [0x90]) := by decide
theorem witness_SixBytesAlwaysDecode : 6 ≤ [0xC7, 0x06, 0x00, 0x01, 0x34, (0x12 : Byte)].length := by
  decide
/-- At the direct form's number and beside it. -/
theorem witness_ModRMFormsAndLengths :
    ((6 : Field3), EaBase.bp) ∈ [((0 : Field3), EaBase.bxsi), (1, .bxdi), (2, .bpsi), (3, .bpdi), (4, .si),
      (5, .di), (6, .bp), (7, .bx)] ∧ (5 : Field3) ≠ 6 ∧ (7 : Field3) ≠ 6 := by decide
theorem witness_BaselineOpcodeMap :
    mappedOpcodes.contains (0x90 : Byte) = false ∧ mappedOpcodes.contains (0x26 : Byte) = true ∧
    (0x26 : Byte) ≠ 0x0F := by decide
theorem witness_Handler32IsNeverRead :
    (buildTables [⟨0x10, true, .sti, some .jmpRel8⟩]).entry true 0x10 = .handler .sti ∧
    (buildTables baselineDescriptors).entry false 0xFB = .handler .sti := by decide
theorem witness_StiTakesEffectOneTickLater :
    ((State.setDeferredIe x0 true).seg .cs).access.d = false ∧
    (State.setDeferredIe x0 true).deferredIe = true := by decide
theorem witness_FlagsChangeOnlyByTheDeferredEnable :
    (∃ t, exec .sti x0 = .next t) ∧ (x0.seg .cs).access.d = false ∧ (∃ t, step x0 = .next t) :=
  ⟨⟨_, rfl⟩, by decide, next_of_isNext (by decide)⟩
theorem witness_DefaultSize32StopsTheTick : x32.isRunning ∧ (x32.seg .cs).access.d = true :=
  ⟨rfl, by decide⟩
theorem witness_ProtectedModeTickStopsAtTheFetch :
    xProt.isRunning ∧ (xProt.seg .cs).access.d = false ∧ xProt.protectedMode = true :=
  ⟨rfl, by decide, by decide⟩
theorem canTick_x0 : x0.canTick := ⟨rfl, rfl, rfl⟩
theorem canTick_placeCode {s : State} (h : s.canTick) (bs : List Byte) : (placeCode bs s).canTick := h
/-- Clause 1. -/
theorem witness_StepRunsTheDecodedInstruction : x0.canTick := canTick_x0
/-- Clause 2: an instruction in the ninth place, a prefix there, and an instruction whose counted operand
byte is the ninth. -/
theorem witness_StepRunsTheDecodedInstruction_decoded :
    (placeCode [0xFB] (xCount 8)).onReference ∧ (xCount 8).protectedMode = false ∧
    (xCount 8).ctx.len + 1 < lengthLimit ∧
    entryAtIp false (placeCode [0xFB] (xCount 8)) ≠ .escapeRouter ∧
    decodeFrom (xCount 8).tables false
      (bytesFrom (placeCode [0xFB] (xCount 8)).mem 6 (codeAddress (xCount 8))) =
        .ok (.sti, [0, 0, 0, 0, 0]) ∧ Instr.isPrefix .sti = false ∧
    decodeFrom (xCount 8).tables false
      (bytesFrom (placeCode [0x26] (xCount 8)).mem 6 (codeAddress (xCount 8))) =
        .ok (.segEs, [0, 0, 0, 0, 0]) ∧ Instr.isPrefix .segEs = true ∧
    decodeFrom (xCount 7).tables false
      (bytesFrom (placeCode [0xB0, 0x42] (xCount 7)).mem 6 (codeAddress (xCount 7))) =
        .ok (.movR8Imm8 .al 0x42, [0, 0, 0, 0]) ∧
    (afterOpcodeByte (placeCode [0xB0, 0x42] (xCount 7))).canFetch
      (Instr.operandBytes (.movR8Imm8 .al 0x42)) :=
  ⟨rfl, by decide, by decide, by decide, by decide, by decide, by decide, by decide, by decide,
    by decide, fun _ => by decide⟩
/-- Clause 5, on an injected bus too: its conclusion's premise is met by what the device answers. -/
theorem witness_StepRunsTheDecodedInstruction_fetched :
    entryAtIp false (placeCode [0xB0, 0x42] x0) = .handler .movR8Imm8 ∧
    (∃ t, fetchPlan (operandPlan .movR8Imm8 (codeByte (placeCode [0xB0, 0x42] x0)))
      (afterOpcodeByte (placeCode [0xB0, 0x42] x0)) = .go (.movR8Imm8 .al 0x42) t) ∧
    ∃ i t, fetchPlan (operandPlan .movR8Imm8 (codeByte xInj)) (afterOpcodeByte xInj) = .go i t :=
  ⟨by decide, ⟨_, rfl⟩, ⟨_, _, rfl⟩⟩
/-- Clauses 3 and 4. -/
theorem witness_StepRunsTheDecodedInstruction_router_and_guard :
    (xCount 8).protectedMode = false ∧ (xCount 8).ctx.len + 1 < lengthLimit ∧
    entryAtIp false (placeCode [0x0F] (xCount 8)) = .escapeRouter ∧
    (xCount 9).protectedMode = false ∧ (xCount 9).ctx.len + 1 = lengthLimit := by decide
theorem witness_TenthOpcodeByteRaisesGP :
    (placeCode (List.replicate 9 0x3E) x0).onReference ∧
    (placeCode (List.replicate 9 0x3E) x0).canTick ∧
    ∀ k, k < 9 → ∃ g, (placeCode (List.replicate 9 0x3E) x0).tables.entry false
      ((placeCode (List.replicate 9 0x3E) x0).mem.read8
        (codeAddress (placeCode (List.replicate 9 0x3E) x0) + BitVec.ofNat 32 k)) =
          .handler (.override g) := by
  refine ⟨rfl, canTick_placeCode canTick_x0 _, fun k hk => ⟨.ds, ?_⟩⟩
  revert k
  decide
/-- At both ends of the range of `p`: no override, and eight. -/
theorem witness_UnhandledOpcodeIsInert :
    (placeCode [0x90] x0).onReference ∧ (placeCode [0x90] x0).canTick ∧ (placeCode [0x90] x0).tables.entry false
      ((placeCode [0x90] x0).mem.read8 (codeAddress (placeCode [0x90] x0) + BitVec.ofNat 32 0)) =
        .unhandled ∧
    (placeCode (List.replicate 8 0x3E ++ [0x90]) x0).onReference ∧
    (placeCode (List.replicate 8 0x3E ++ [0x90]) x0).canTick ∧
    (∀ k, k < 8 → ∃ g, (placeCode (List.replicate 8 0x3E ++ [0x90]) x0).tables.entry false
      ((placeCode (List.replicate 8 0x3E ++ [0x90]) x0).mem.read8
        (codeAddress (placeCode (List.replicate 8 0x3E ++ [0x90]) x0) + BitVec.ofNat 32 k)) =
          .handler (.override g)) ∧
    (placeCode (List.replicate 8 0x3E ++ [0x90]) x0).tables.entry false
      ((placeCode (List.replicate 8 0x3E ++ [0x90]) x0).mem.read8
        (codeAddress (placeCode (List.replicate 8 0x3E ++ [0x90]) x0) + BitVec.ofNat 32 8)) =
          .unhandled := by
  refine ⟨rfl, canTick_placeCode canTick_x0 _, by decide, rfl, canTick_placeCode canTick_x0 _,
    fun k hk => ⟨.ds, ?_⟩, by decide⟩
  revert k
  decide
theorem witness_UnroutedTwoByteOpcodeFaults :
    (placeCode [0x0F, 0x05] x0).onReference ∧
    (placeCode [0x0F, 0x05] x0).canTick ∧
    entryAtIp false (placeCode [0x0F, 0x05] x0) = .escapeRouter ∧
    (placeCode [0x0F, 0x05] x0).tables.entry true ((placeCode [0x0F, 0x05] x0).mem.read8
      (codeAddress (placeCode [0x0F, 0x05] x0) + 1)) = .notRouted :=
  ⟨rfl, canTick_placeCode canTick_x0 _, by decide, by decide⟩
/-- Each row of the table, and the two forms that exclude [BP] or not. -/
theorem witness_EffectiveAddressTable :
    (EaBase.bp, x0.r16 .bp, Seg.ss) ∈ [(EaBase.bp, x0.r16 .bp, Seg.ss), (.bx, x0.r16 .bx, .ds)] ∧
    EaBase.bx ≠ .bp ∧ EaBase.bxsi ≠ .bp := by decide
theorem witness_ModRMDecoderOnlyFetches :
    (placeCode [0xC3] (xCount 8)).onReference ∧ (xCount 8).canFetch (RM.reg 3).size ∧
    decodeModRM (bytesFrom (placeCode [0xC3] (xCount 8)).mem 3 (codeAddress (xCount 8))) =
      some ((.reg 3, 0), [0, 0]) ∧
    (xCount 6).canFetch (RM.mem16 .bx 0xFFFF).size ∧
    decodeModRM (bytesFrom (placeCode [0x87, 0xFF, 0xFF] (xCount 6)).mem 3 (codeAddress (xCount 6))) =
      some ((.mem16 .bx 0xFFFF, 0), []) :=
  ⟨rfl, canFetch_at_the_guard 8 (by decide), by decide, canFetch_at_the_guard 6 (by decide), by decide⟩
/-- A memory form in real mode, a register form in either mode. -/
theorem accessible_forms :
    accessible (.direct 0xFFFF) x0 ∧ accessible (.reg 0) xProt ∧ accessible (.mem16 .bp 0x8000) xInj :=
  ⟨fun _ => rfl, nofun, fun _ => rfl⟩
theorem witness_MovRm8R8Result : accessible (.direct 0xFFFF) x0 ∧ x0.mem.wf = true :=
  ⟨accessible_forms.1, by decide⟩
theorem witness_MovRm16R16Result : accessible (.mem16 .bp 0x8000) xInj ∧ xInj.mem.wf = true :=
  ⟨accessible_forms.2.2, by decide⟩
theorem witness_MovR8Rm8Result : accessible (.direct 0xFFFF) x0 := accessible_forms.1
theorem witness_MovR16Rm16Result : accessible (.mem16 .bp 0x8000) xInj := accessible_forms.2.2
theorem witness_MovRm8Imm8Result : accessible (.direct 0xFFFF) x0 ∧ x0.mem.wf = true :=
  ⟨accessible_forms.1, by decide⟩
theorem witness_MovRm16Imm16Result : accessible (.reg 0) xProt ∧ xProt.mem.wf = true :=
  ⟨accessible_forms.2.1, by decide⟩
theorem witness_MovRm16SregResult :
    accessible (.reg 0) xProt ∧ xProt.mem.wf = true ∧
    ((0 : Field3), Seg.es) ∈ [((0 : Field3), Seg.es), (1, .cs), (2, .ss), (3, .ds), (4, .fs), (5, .gs)] ∧
    ((5 : Field3), Seg.gs) ∈ [((0 : Field3), Seg.es), (1, .cs), (2, .ss), (3, .ds), (4, .fs), (5, .gs)] :=
  ⟨accessible_forms.2.1, by decide, by decide, by decide⟩
theorem witness_MovSregRm16Result :
    x0.protectedMode = false ∧
    ((0 : Field3), Seg.es) ∈ [((0 : Field3), Seg.es), (2, .ss), (3, .ds), (4, .fs), (5, .gs)] ∧
    ((5 : Field3), Seg.gs) ∈ [((0 : Field3), Seg.es), (2, .ss), (3, .ds), (4, .fs), (5, .gs)] := by decide
/-- Each of the four alternatives at its boundary, and a ModRM byte of the second clause. -/
theorem witness_MeaninglessRegFieldStops :
    (1 : Field3) ≠ 0 ∧ (7 : Field3) ≠ 0 ∧ 6 ≤ (6 : Field3).toNat ∧
    ((1 : Field3) = 1 ∨ 6 ≤ (1 : Field3).toNat) ∧ ((7 : Field3) = 1 ∨ 6 ≤ (7 : Field3).toNat) ∧
    decodeModRM [0xC8, 0x99] = some ((.reg 0, 1), [0x99]) := by decide
/-- The fetches of the longest operands, where the last counted byte is the ninth. -/
theorem witness_MovBusCallsInOrder_fetches :
    (placeCode [0x06, 0x00, 0x01, 0x34, 0x12] (xCount 4)).onReference ∧
    decodeHandler .movRm16Imm16 0xC7
      (bytesFrom (placeCode [0x06, 0x00, 0x01, 0x34, 0x12] (xCount 4)).mem 5
        (codeAddress (xCount 4))) =
      some (.movRm16Imm16 (.direct 0x0100) (.value 0x1234), []) ∧
    (xCount 4).canFetch (Instr.operandBytes (.movRm16Imm16 (.direct 0x0100) (.value 0x1234))) :=
  ⟨rfl, by decide, canFetch_at_the_guard 4 (by decide)⟩
theorem witness_MovBusCallsInOrder :
    accessible (.direct 0xFFFF) x0 ∧
    (∃ t, exec (.movRm8R8 (.direct 0xFFFF) .ah) x0 = .next t) ∧
    (∃ t, exec (.movRm16R16 (.direct 0xFFFF) .ax) x0 = .next t) ∧
    (∃ t, exec (.movR8Rm8 .ah (.direct 0xFFFF)) x0 = .next t) ∧
    (∃ t, exec (.movR16Rm16 .ax (.direct 0xFFFF)) x0 = .next t) ∧
    Seg.ofField 1 = some .cs ∧ (∃ t, exec (.movRm16Sreg (.direct 0xFFFF) 1) x0 = .next t) ∧
    Seg.ofField 5 = some .gs ∧ Seg.gs ≠ .cs ∧
    (∃ t, exec (.movSregRm16 5 (.direct 0xFFFF)) x0 = .next t) ∧
    (∃ t, exec (.movRm8Imm8 (.direct 0xFFFF) (.value 1)) x0 = .next t) ∧
    (∃ t, exec (.movRm16Imm16 (.direct 0xFFFF) (.value 1)) x0 = .next t) :=
  ⟨accessible_forms.1, next_of_isNext (by decide), next_of_isNext (by decide),
    next_of_isNext (by decide), next_of_isNext (by decide), by decide, next_of_isNext (by decide),
    by decide, by decide, next_of_isNext (by decide), next_of_isNext (by decide),
    next_of_isNext (by decide)⟩
theorem witness_FarJumpLoadsCsAndIp : x0.protectedMode = false := by decide
theorem witness_CatchingAFaultChangesNothingElse_next_tick : x0.canTick := canTick_x0
theorem witness_CatchingAFaultChangesNothingElse :
    (xCount 9).protectedMode = false ∧ (xCount 9).ctx.len + 1 = lengthLimit ∧
    (xCount 8).protectedMode = false ∧ (xCount 8).ctx.len + 1 < lengthLimit ∧
    entryAtIp true (xCount 8) = .notRouted := by decide
/-- Clauses 1 and 2, at both ends of their ranges. -/
theorem witness_CountedOperandByteRaisesGP_fetches :
    (xCount 9).protectedMode = false ∧ (xCount 9).lenCounts = true ∧ (xCount 9).ctx.len = 9 ∧
    (xCount 8).protectedMode = false ∧ (xCount 8).lenCounts = true ∧ (xCount 8).ctx.len = 8 := by decide
/-- Clause 3: the first operand byte is the tenth; the last of the longest operands is. -/
theorem witness_CountedOperandByteRaisesGP :
    (placeCode [0x42] (xCount 9)).onReference ∧ (xCount 9).protectedMode = false ∧
    (xCount 9).lenCounts = true ∧ (xCount 9).ctx.len ≤ 9 ∧
    decodeHandler .movR8Imm8 0xB0
      (bytesFrom (placeCode [0x42] (xCount 9)).mem 5 (codeAddress (xCount 9))) =
        some (.movR8Imm8 .al 0x42, [0, 0, 0, 0]) ∧
    10 ≤ (xCount 9).ctx.len + Instr.operandBytes (.movR8Imm8 .al 0x42) ∧
    (placeCode [0x06, 0x00, 0x01, 0x34, 0x12] (xCount 5)).onReference ∧
    (xCount 5).protectedMode = false ∧ (xCount 5).lenCounts = true ∧ (xCount 5).ctx.len ≤ 9 ∧
    decodeHandler .movRm16Imm16 0xC7
      (bytesFrom (placeCode [0x06, 0x00, 0x01, 0x34, 0x12] (xCount 5)).mem 5
        (codeAddress (xCount 5))) =
      some (.movRm16Imm16 (.direct 0x0100) (.value 0x1234), []) ∧
    10 ≤ (xCount 5).ctx.len + Instr.operandBytes (.movRm16Imm16 (.direct 0x0100) (.value 0x1234)) :=
  ⟨rfl, by decide, by decide, by decide, by decide, by decide, rfl, by decide, by decide, by decide,
    by decide, by decide⟩
theorem witness_FaultedTickWritesNothing :
    ∃ t, step (placeCode [0x0F, 0x05] x0) = .next t ∧ t.faults ≠ (placeCode [0x0F, 0x05] x0).faults := by
  obtain ⟨t, e⟩ := next_of_isNext (o := step (placeCode [0x0F, 0x05] x0)) (by decide)
  have h : look [0x0F, 0x05] x0 (fun t => t.faults.length) = some 1 := by decide
  refine ⟨t, e, fun c => ?_⟩
  simp only [look, e, c] at h
  exact absurd h (by decide)
theorem witness_InitMeetsTheInvariant :
    Memory.wf { defaultLaunch with memInit := [(0x00FFFFF0, 0xFB)] }.memInit = true := by decide
theorem witness_StepKeepsTheInvariant : State.reset.Inv ∧ ∃ t, step State.reset = .next t :=
  ⟨⟨by decide, by show State.reset.ctx.len ≤ lengthLimit; decide,
      by show State.reset.flags.getLsbD 1 = true; decide, ⟨rfl, rfl, rfl, rfl⟩,
      by intro g; cases g <;> rfl⟩,
    next_of_isNext (by decide)⟩
theorem witness_RunningMachineAlwaysSteps : x0.isRunning ∧ x32.isRunning ∧ xProt.isRunning :=
  ⟨rfl, rfl, rfl⟩
theorem witness_StoppedMachineHasNoStep : xStopped.status = .stopped .c6Reg := by decide
theorem witness_RunIsRepeatedTicks :
    (∃ t, run 0 x0 = .next t) ∧ (∃ t, run 2 x0 = .next t ∧ t.isRunning) := by
  refine ⟨⟨x0, rfl⟩, ?_⟩
  obtain ⟨t, e⟩ := next_of_isNext (o := run 2 x0) (by decide)
  have h : (match run 2 x0 with
      | .next t => some t.status
      | _ => none) = some .running := by decide
  rw [e] at h
  exact ⟨t, e, Option.some.inj h⟩
theorem witness_ConfigurationNeverChanges : ∃ t, step x0 = .next t := next_of_isNext (by decide)
theorem witness_ObservationsOnlyGrow : ∃ t, step x0 = .next t := next_of_isNext (by decide)
/-- Both alternatives: the far jump changes CS, MOV Sreg changes DS. -/
theorem witness_SegmentsChangeOnlyByLoads :
    (∃ t, exec (.jmpPtr16 0 0x1000) x0 = .next t ∧ t.seg .cs ≠ x0.seg .cs) ∧
    (∃ t, exec (.movSregRm16 3 (.reg 3)) (xReg .bx 0x2000) = .next t ∧
      t.seg .ds ≠ (xReg .bx 0x2000).seg .ds) :=
  ⟨⟨_, rfl, by decide⟩, ⟨_, rfl, by decide⟩⟩

end Sys2Proof.Tests
end

section
/-! The segment load of 10_state: R31 in real mode, the stop of R32 in protected mode. -/

namespace Sys2Proof.Machine

/-! ## What a stop changes (R206) -/

section TakeStop

variable (r : StopReason) (s : State)

@[simp] theorem takeStop_status : (takeStop r s).status = .stopped r := by simp [takeStop]

@[simp] theorem takeStop_trace : (takeStop r s).trace = s.trace ++ [.stopped r] := by simp [takeStop]

@[simp] theorem takeStop_segs : (takeStop r s).segs = s.segs := by simp [takeStop]

@[simp] theorem takeStop_faults : (takeStop r s).faults = s.faults := by simp [takeStop]

end TakeStop

/-! ## Segment load -/

/-- The protected-mode counterpart of `loadSegment_real`. -/
theorem loadSegment_protected {s : State} (h : s.protectedMode = true) (g : Seg) (sel : Word) :
    loadSegment g sel s = .ended (takeStop .protectedLoad s) := by
  simp [loadSegment, h, stopUnimplemented]

/-- Settles O3: real mode writes exactly the loaded descriptor into the named segment, so its fields
are those of `loadedSeg` and the rest is the frame of `setSeg`. -/
theorem loadSegmentInRealMode : Obligations.LoadSegmentInRealMode := by
  unfold Obligations.LoadSegmentInRealMode
  constructor
  · intro g sel s hreal
    refine ⟨s.setSeg g (loadedSeg g sel (s.seg g)), loadSegment_real hreal g sel, ?_⟩
    have loaded : (s.setSeg g (loadedSeg g sel (s.seg g))).seg g = loadedSeg g sel (s.seg g) :=
      State.seg_setSeg_self ..
    rw [loaded]
    exact ⟨rfl, rfl, rfl, rfl, fun q hq => State.seg_setSeg_ne s _ hq, rfl⟩
  · exact fun g sel s hprot => loadSegment_protected hprot g sel

/-- Settles O4: the load ends in `takeStop`, which sets the status, appends one event and leaves the
segments and the fault list. -/
theorem loadSegmentInProtectedModeStops : Obligations.LoadSegmentInProtectedModeStops := by
  unfold Obligations.LoadSegmentInProtectedModeStops
  intro g sel s hprot
  exact ⟨takeStop .protectedLoad s, loadSegment_protected hprot g sel, takeStop_status .., rfl,
    takeStop_segs .., takeStop_trace .., takeStop_faults ..⟩

end Sys2Proof.Machine
end

section
/-! The access primitives of 20_memory: the stop of R64 in protected mode, and the one bus call of R67
wherever the last-byte rule answers an address. -/

namespace Sys2Proof.Machine

/-! ## What else a stop leaves unchanged (R206) -/

section TakeStop

variable (r : StopReason) (s : State)

@[simp] theorem takeStop_busLog : (takeStop r s).busLog = s.busLog := by simp [takeStop]

@[simp] theorem takeStop_device : (takeStop r s).device = s.device := by simp [takeStop]

@[simp] theorem takeStop_ip : (takeStop r s).ip = s.ip := by simp [takeStop]

@[simp] theorem takeStop_regs : (takeStop r s).regs = s.regs := by simp [takeStop]

end TakeStop

/-! ## Access primitives in protected mode: the translation comes first, so its stop is theirs (R64) -/

section Protected

variable {s : State} (h : s.protectedMode = true) (g : Seg) (off : Dword)
include h

theorem segRead8_protected : segRead8 g off s = .ended (takeStop .protectedTranslation s) := by
  simp [segRead8, physAddr_protected h]

theorem segRead16_protected : segRead16 g off s = .ended (takeStop .protectedTranslation s) := by
  simp [segRead16, physAddr_protected h]

theorem segRead32_protected : segRead32 g off s = .ended (takeStop .protectedTranslation s) := by
  simp [segRead32, physAddr_protected h]

theorem segWrite8_protected (v : Byte) :
    segWrite8 g off v s = .ended (takeStop .protectedTranslation s) := by
  simp [segWrite8, physAddr_protected h]

theorem segWrite16_protected (v : Word) :
    segWrite16 g off v s = .ended (takeStop .protectedTranslation s) := by
  simp [segWrite16, physAddr_protected h]

theorem segWrite32_protected (v : Dword) :
    segWrite32 g off v s = .ended (takeStop .protectedTranslation s) := by
  simp [segWrite32, physAddr_protected h]

theorem fetchCode32_protected : fetchCode32 s = .ended (takeStop .protectedTranslation s) := by
  simp [fetchCode32, physAddr_protected h]

end Protected

/-! ## Data access where the last-byte rule answers an address: one bus call there (R67, R71) -/

section Translated

variable {s t : State} {g : Seg} {off a : Dword}

theorem segRead8_translated (h : physAddr g off .byte .read s = .go a t) :
    segRead8 g off s = .go (busReadByte a t).1 (busReadByte a t).2 := by
  simp [segRead8, h]

theorem segRead16_translated (h : physAddr g off .word .read s = .go a t) :
    segRead16 g off s = .go (busReadWord a t).1 (busReadWord a t).2 := by
  simp [segRead16, h]

theorem segRead32_translated (h : physAddr g off .dword .read s = .go a t) :
    segRead32 g off s = .go (busReadDword a t).1 (busReadDword a t).2 := by
  simp [segRead32, h]

theorem segWrite8_translated (h : physAddr g off .byte .write s = .go a t) (v : Byte) :
    segWrite8 g off v s = .go () (busWriteByte a v t) := by
  simp [segWrite8, h]

theorem segWrite16_translated (h : physAddr g off .word .write s = .go a t) (v : Word) :
    segWrite16 g off v s = .go () (busWriteWord a v t) := by
  simp [segWrite16, h]

theorem segWrite32_translated (h : physAddr g off .dword .write s = .go a t) (v : Dword) :
    segWrite32 g off v s = .go () (busWriteDword a v t) := by
  simp [segWrite32, h]

end Translated

/-- Settles O5: the common end is `takeStop .protectedTranslation s`; its frame gives what the stop
leaves, and every primitive ends in it because each begins by translating. -/
theorem protectedModeTranslationStops : Obligations.ProtectedModeTranslationStops := by
  unfold Obligations.ProtectedModeTranslationStops
  intro s hprot
  exact ⟨takeStop .protectedTranslation s, takeStop_status .., rfl, takeStop_trace ..,
    takeStop_faults .., takeStop_busLog .., takeStop_device .., takeStop_ip .., takeStop_regs ..,
    translate_protected hprot, segRead8_protected hprot, segRead16_protected hprot,
    segRead32_protected hprot, segWrite8_protected hprot, segWrite16_protected hprot,
    segWrite32_protected hprot, fetchCode8_protected hprot, fetchCode16_protected hprot,
    fetchCode32_protected hprot⟩

/-- Settles O7: the primitive is the bus call of its width at the translated address, and a bus call
is by definition the update of the device and of the record of calls that the statement writes out. -/
theorem dataAccessIsOneBusCall : Obligations.DataAccessIsOneBusCall := by
  unfold Obligations.DataAccessIsOneBusCall
  intro s g off a
  exact ⟨segRead8_translated, segRead16_translated, segRead32_translated,
    fun v h => segWrite8_translated h v, fun v h => segWrite16_translated h v,
    fun v h => segWrite32_translated h v⟩

end Sys2Proof.Machine
end

section
/-! The opcode stage of one tick, byte by byte on the reference bus (40_engine R112 to R117): segment
overrides go on with it, and an unhandled byte ends it with its notice (R120). -/

namespace Sys2Proof.Machine

/-! ## What one opcode byte makes of `ip`, the trace and the context (R114) -/

section OpcodeByte

variable (s : State)

@[simp] theorem afterOpcodeByte_ip : (afterOpcodeByte s).ip = s.ip + 1 := rfl

@[simp] theorem afterOpcodeByte_trace : (afterOpcodeByte s).trace =
    s.trace ++ [.decoded (s.seg .cs).selector s.ip (codeByte s)] := rfl

@[simp] theorem afterOpcodeByte_len : (afterOpcodeByte s).ctx.len = s.ctx.len + 1 :=
  List.length_append

end OpcodeByte

/-! ## A tick past its prelude, and one override in it -/

theorem deriveSizes_16 {s : State} (hd : (s.seg .cs).access.d = false) :
    deriveSizes s = .go () (s.setSizes .bits16 .bits16) := by
  simp [deriveSizes, hd]

theorem step_eq_opcodeStage {s : State} (h : s.canTick) :
    step s = opcodeStage lengthLimit false (tickStart s) := by
  obtain ⟨hrun, hd, -⟩ := h
  have hprelude : prelude s = .go () (tickStart s) := by
    rw [prelude, deriveSizes_16 hd]; rfl
  rw [step, tick, hrun]
  simp only [hprelude, runDecode]

theorem exec_overrideInstr (g : Seg) (s : State) :
    exec (overrideInstr g) s = .next (setOverride g s) := by
  cases g <;> rfl

theorem isPrefix_overrideInstr (g : Seg) : (overrideInstr g).isPrefix = true := by
  cases g <;> rfl

/-- A segment override fetches no operand, sets `ctx.override` and goes on with the stage (R125). -/
theorem opcodeStage_override {fuel : Nat} {sec : Bool} {s t : State} {b : Byte} {g : Seg}
    (hf : opcodeFetch s = .go b t) (he : t.tables.entry sec b = .handler (.override g)) :
    opcodeStage (fuel + 1) sec s = opcodeStage fuel false (setOverride g t) := by
  rw [opcodeStage_handler hf he rfl]
  simp only [exec_overrideInstr, isPrefix_overrideInstr, if_true]

/-! ## The state inside a tick, `n` opcode bytes in -/

theorem add_ofNat_succ (off : Dword) (n : Nat) :
    off + BitVec.ofNat 32 (n + 1) = off + BitVec.ofNat 32 n + 1 := by
  rw [BitVec.ofNat_add, ← BitVec.add_assoc]; rfl

/-- The events of one byte more end with that byte's. -/
theorem decodedEvents_succ_last (s : State) : ∀ (n : Nat) (off : Dword),
    decodedEvents s (n + 1) off = decodedEvents s n off ++
      [.decoded (s.seg .cs).selector (off + BitVec.ofNat 32 n)
        (s.mem.read8 ((s.seg .cs).base + (off + BitVec.ofNat 32 n)))]
  | 0, off => by simp [decodedEvents]
  | n + 1, off => by
    have hoff : off + 1 + BitVec.ofNat 32 n = off + BitVec.ofNat 32 (n + 1) := by
      rw [add_ofNat_succ, add_right_comm]
    rw [decodedEvents, decodedEvents_succ_last s n (off + 1), hoff]
    rfl

/-- `t` is a state inside the tick from `s`, when `n` opcode-stage bytes have passed the guard and
nothing but overrides has run: `ip`, context length and trace have gone `n` bytes on, `flags` is what the
prelude made it, and registers, segments, device, `cr0`, tables, faults and status are as they were. -/
structure OpcodeBytesIn (s : State) (n : Nat) (t : State) : Prop where
  ip : t.ip = s.ip + BitVec.ofNat 32 n
  len : t.ctx.len = n
  trace : t.trace = s.trace ++ decodedEvents s n s.ip
  flags : t.flags = (tickStart s).flags
  regs : t.regs = s.regs
  segs : t.segs = s.segs
  device : t.device = s.device
  cr0 : t.cr0 = s.cr0
  tables : t.tables = s.tables
  faults : t.faults = s.faults
  status : t.status = s.status

theorem opcodeBytesIn_tickStart (s : State) : OpcodeBytesIn s 0 (tickStart s) := by
  constructor <;> simp [decodedEvents, Ctx.len, emptyCtx]

namespace OpcodeBytesIn

variable {s t : State} {n : Nat} (a : OpcodeBytesIn s n t)
include a

theorem codeAddress_eq : codeAddress t = codeAddress s + BitVec.ofNat 32 n := by
  rw [codeAddress, State.seg_congr a.segs, a.ip, ← BitVec.add_assoc]; rfl

theorem onReference (hr : s.onReference) : t.onReference := by
  rw [State.onReference_iff, a.device, ← State.onReference_iff]; exact hr

/-- The next byte the tick fetches is the one `n` bytes on. -/
theorem codeByte_eq (hr : s.onReference) :
    codeByte t = s.mem.read8 (codeAddress s + BitVec.ofNat 32 n) := by
  rw [codeByte_reference (a.onReference hr), State.mem_congr a.device, a.codeAddress_eq]

/-- Below the guard that byte is fetched and accumulated. -/
theorem opcodeFetch_eq (hr : s.onReference) (ht : s.canTick) (hn : n + 1 < lengthLimit) :
    opcodeFetch t = .go (s.mem.read8 (codeAddress s + BitVec.ofNat 32 n)) (afterOpcodeByte t) := by
  obtain ⟨-, -, hreal⟩ := ht
  rw [← a.codeByte_eq hr]
  exact opcodeFetch_ok ((State.protectedMode_congr a.cr0).trans hreal) (by rw [a.len]; exact hn)

/-- One opcode byte more. -/
theorem opcodeByte (hr : s.onReference) : OpcodeBytesIn s (n + 1) (afterOpcodeByte t) where
  ip := by rw [afterOpcodeByte_ip, a.ip, add_ofNat_succ]
  len := by rw [afterOpcodeByte_len, a.len]
  trace := by
    rw [afterOpcodeByte_trace, a.trace, State.seg_congr a.segs, a.ip, a.codeByte_eq hr,
      decodedEvents_succ_last, List.append_assoc, codeAddress, BitVec.add_assoc]
  flags := a.flags
  regs := a.regs
  segs := a.segs
  device := (afterOpcodeByte_device (a.onReference hr)).trans a.device
  cr0 := a.cr0
  tables := a.tables
  faults := a.faults
  status := a.status

/-- An override writes the context's override alone. -/
theorem override (g : Seg) : OpcodeBytesIn s n (setOverride g t) where
  __ := a

end OpcodeBytesIn

/-- While only overrides have come and there is room for one more byte below the guard, the tick is the
opcode stage still to run, `n` bytes on. -/
theorem step_after_overrides {s : State} (hr : s.onReference) (ht : s.canTick) : ∀ {n fuel : Nat},
    fuel + 1 + n = lengthLimit →
    (∀ k, k < n → ∃ g, s.tables.entry false (s.mem.read8 (codeAddress s + BitVec.ofNat 32 k)) =
      .handler (.override g)) →
    ∃ t, OpcodeBytesIn s n t ∧ step s = opcodeStage (fuel + 1) false t
  | 0, _, hn, _ => ⟨tickStart s, opcodeBytesIn_tickStart s, hn ▸ step_eq_opcodeStage ht⟩
  | n + 1, fuel, hn, hov => by
    obtain ⟨t, a, hstep⟩ := step_after_overrides hr ht (n := n) (fuel := fuel + 1) (by omega)
      fun k hk => hov k (by omega)
    obtain ⟨g, hg⟩ := hov n (by omega)
    have b := a.opcodeByte hr
    refine ⟨setOverride g (afterOpcodeByte t), b.override g, ?_⟩
    rw [hstep, opcodeStage_override (a.opcodeFetch_eq hr ht (by omega)) (by rw [b.tables, hg])]

/-! ## The unhandled instruction (R120) -/

theorem exec_unhandled (b : Byte) (s : State) :
    exec (.unhandled b) s = .next (s.emit (.unhandled (s.seg .cs).selector (s.ip - 1) b)) := rfl

/-- Settles O27: after `p` overrides the stage has room for the byte that finds UNHANDLED, and its
instruction only appends the notice to the trace that the `p + 1` bytes have made. -/
theorem unhandledOpcodeIsInert : Obligations.UnhandledOpcodeIsInert := by
  unfold Obligations.UnhandledOpcodeIsInert
  refine ⟨exec_unhandled, fun s p hr ht hp hov hun => ?_⟩
  have hfuel : 9 - p + 1 + p = lengthLimit := by unfold lengthLimit; omega
  obtain ⟨t, a, hstep⟩ := step_after_overrides hr ht hfuel hov
  have b := a.opcodeByte hr
  rw [hstep, opcodeStage_unhandled (a.opcodeFetch_eq hr ht (by omega)) (by rw [b.tables, hun]),
    exec_unhandled]
  refine ⟨_, rfl, b.ip, b.regs, b.segs, b.device, b.cr0, b.flags, b.faults, b.status.trans ht.1, ?_,
    by rw [tickStart_ctx]; rfl⟩
  rw [State.emit_trace, b.trace, State.seg_congr b.segs, afterOpcodeByte_ip, BitVec.add_sub_cancel,
    a.ip]

end Sys2Proof.Machine
end

section
/-! Trap entry (60_exceptions R204, R205): what catching a fault leaves as it was, and the two opcode-stage
bytes that end in one, the guard's tenth and a second byte that finds NOT_ROUTED. -/

namespace Sys2Proof.Machine

/-! ## What catching a fault leaves unchanged -/

theorem codeAddress_catchFault (f : FaultRecord) (s : State) :
    codeAddress (catchFault f s) = codeAddress s := rfl

/-- A tick's premises read `status`, CS and `cr0`, none of which a caught fault writes. -/
theorem canTick_catchFault {s : State} (h : s.canTick) (f : FaultRecord) : (catchFault f s).canTick := h

@[simp] theorem catchFault_mem (f : FaultRecord) (s : State) : (catchFault f s).mem = s.mem := rfl

/-! ## The tenth opcode byte (R116) -/

/-- No answer to a fetch changes the reference RAM. -/
@[simp] theorem afterTenthByte_mem (s : State) : (afterTenthByte s).mem = s.mem := by
  simp [afterTenthByte, busReadByte, State.device_mem]

theorem opcodeStage_tenth {s : State} (hreal : s.protectedMode = false)
    (hlen : s.ctx.len + 1 = lengthLimit) (fuel : Nat) (sec : Bool) :
    opcodeStage (fuel + 1) sec s = .next (afterTenthByte s) :=
  opcodeStage_ended (opcodeFetch_tenth hreal hlen)

/-! ## A byte that finds NOT_ROUTED (R122, R203) -/

theorem exec_escape (b : Byte) (s : State) :
    exec (.escape b) s = .next (catchFault (notRoutedFault b) s) := rfl

theorem opcodeStage_notRoutedAtIp {sec : Bool} {s : State} (hreal : s.protectedMode = false)
    (hlen : s.ctx.len + 1 < lengthLimit) (hentry : entryAtIp sec s = .notRouted) (fuel : Nat) :
    opcodeStage (fuel + 1) sec s =
      .next (catchFault (notRoutedFault (codeByte s)) (afterOpcodeByte s)) := by
  rw [opcodeStage_notRouted (opcodeFetch_ok hreal hlen) hentry, exec_escape]

/-! ## Trap entry -/

/-- Settles O47: `catchFault` is the two appends. The tenth byte ends the stage in `afterTenthByte`, an
unrouted one in the caught fault on `afterOpcodeByte`; each is one fetched byte and one caught fault, so
every part but the reference RAM, a view of the device, is by definition what the statement writes. -/
theorem catchingAFaultChangesNothingElse : Obligations.CatchingAFaultChangesNothingElse := by
  unfold Obligations.CatchingAFaultChangesNothingElse
  refine ⟨fun _ _ => rfl, fun f s h => ⟨canTick_catchFault h f, codeAddress_catchFault f s⟩, ?_, ?_⟩
  · intro k sec s hreal hlen
    exact ⟨afterTenthByte s, opcodeStage_tenth hreal hlen k sec, rfl, rfl, rfl, rfl, rfl, rfl,
      afterTenthByte_mem s, rfl, rfl, rfl⟩
  · intro k s hreal hlen hentry
    exact ⟨_, opcodeStage_notRoutedAtIp hreal hlen hentry k, rfl, rfl, rfl, rfl, rfl, rfl,
      (catchFault_mem ..).trans (afterOpcodeByte_mem s), rfl, rfl, rfl⟩

end Sys2Proof.Machine
end

section
/-! The deferred interrupt enable of 70_reset_and_hazards (R185, R250): what STI asks for, and what the
next tick's prelude makes of it. -/

namespace Sys2Proof.Machine

/-- What STI does in its own tick (R185). -/
theorem exec_sti (s : State) : exec .sti s = .next (s.setDeferredIe true) := rfl

/-- With a 16-bit code segment the prelude goes on to the engine, also where the first translation stops. -/
theorem prelude_16 {s : State} (hd : (s.seg .cs).access.d = false) :
    prelude s = .go () (tickStart s) := by
  rw [prelude, deriveSizes_16 hd]; rfl

@[simp] theorem State.setInterruptEnable_interruptEnable (s : State) :
    s.setInterruptEnable.interruptEnable = true := by
  have hIF : flagIF.getLsbD 9 = true := by decide
  simp [setInterruptEnable, interruptEnable, readFlags, writeFlags, hIF]

theorem tickStart_of_deferredIe {s : State} (h : s.deferredIe = true) :
    tickStart s =
      (resetContext (s.setSizes .bits16 .bits16)).setInterruptEnable.setDeferredIe false :=
  if_pos h

theorem tickStart_interruptEnable {s : State} (h : s.deferredIe = true) :
    (tickStart s).interruptEnable = true := by
  rw [tickStart_of_deferredIe h]
  exact State.setInterruptEnable_interruptEnable _

/-- No deferred enable outlives the prelude, pending or not. -/
@[simp] theorem tickStart_deferredIe (s : State) : (tickStart s).deferredIe = false := by
  unfold tickStart applyDeferredIe
  split
  · rfl
  · next hnone => exact Bool.eq_false_of_not_eq_true hnone

/-- Settles O21: STI is the write of the deferred flag alone, and the next prelude ends in `tickStart`,
which turns that flag into IF and leaves `ip`, the device and the record of calls. -/
theorem stiTakesEffectOneTickLater : Obligations.StiTakesEffectOneTickLater := by
  unfold Obligations.StiTakesEffectOneTickLater
  constructor
  · exact fun s => ⟨s.setDeferredIe true, exec_sti s, rfl, rfl, rfl⟩
  · intro s hd hpending
    exact ⟨tickStart s, prelude_16 hd, tickStart_interruptEnable hpending, tickStart_deferredIe s,
      tickStart_ip s, tickStart_busLog s, tickStart_device s, congrArg Ctx.bytes (tickStart_ctx s)⟩

end Sys2Proof.Machine
end

section
/-! The dispatch tables of 40_engine section 3: what a slot can hold, the install loop slot by slot, and
the baseline map of 30_encoding section 4. -/

namespace Sys2Proof

/-! ## What a slot can hold (R118, R119) -/

/-- A slot holds its default or the 16-bit handler of a descriptor that names it. -/
theorem slotEntry_cases (esc : Bool) (i : Nat) : ∀ (ds : List Descriptor) (e : TableEntry),
    slotEntry ds esc e i = e ∨
      ∃ d ∈ ds, d.opcode.toNat = i ∧ slotEntry ds esc e i = .handler d.handler16
  | [], _ => .inl rfl
  | d :: ds, e => by
    rw [slotEntry_cons]
    obtain h | ⟨d', hd', hi, h⟩ := slotEntry_cases esc i ds
      (if d.escape == esc && d.opcode.toNat == i then .handler d.handler16 else e)
    · rw [h]
      by_cases hd : (d.escape == esc && d.opcode.toNat == i) = true
      · rw [if_pos hd]
        exact .inr ⟨d, List.mem_cons_self, by simp_all, rfl⟩
      · exact .inl (if_neg hd)
    · exact .inr ⟨d', List.mem_cons_of_mem d hd', hi, h⟩

/-- A built table routes 0x0F, and any other byte finds the table's default or a descriptor's handler. -/
theorem entry_buildTables_cases (ds : List Descriptor) (sec : Bool) (b : Byte) :
    (sec = false ∧ b = 0x0F ∧ (buildTables ds).entry sec b = .escapeRouter) ∨
    (buildTables ds).entry sec b = (if sec then .notRouted else .unhandled) ∨
    ∃ d ∈ ds, d.opcode = b ∧ (buildTables ds).entry sec b = .handler d.handler16 := by
  rw [entry_buildTables]
  cases sec with
  | true =>
    obtain h | ⟨d, hd, hi, h⟩ := slotEntry_cases true b.toNat ds .notRouted
    · exact .inr (.inl h)
    · exact .inr (.inr ⟨d, hd, BitVec.eq_of_toNat_eq hi, h⟩)
  | false =>
    by_cases hb : b.toNat = 0x0F
    · exact .inl ⟨rfl, BitVec.eq_of_toNat_eq hb, by simp [hb]⟩
    · obtain h | ⟨d, hd, hi, h⟩ := slotEntry_cases false b.toNat ds .unhandled
      · exact .inr (.inl (by simpa [hb] using h))
      · exact .inr (.inr ⟨d, hd, BitVec.eq_of_toNat_eq hi, by simpa [hb] using h⟩)

/-- An installed entry is the 16-bit handler of a descriptor of that byte. -/
theorem entry_buildTables_handler {ds : List Descriptor} {sec : Bool} {b : Byte} {h : Handler}
    (he : (buildTables ds).entry sec b = .handler h) :
    ∃ d ∈ ds, d.opcode = b ∧ h = d.handler16 := by
  obtain ⟨-, -, e⟩ | e | ⟨d, hd, hb, e⟩ := entry_buildTables_cases ds sec b
  · rw [e] at he; cases he
  · rw [e] at he; cases sec <;> cases he
  · rw [e] at he; cases he; exact ⟨d, hd, hb, rfl⟩

/-! ## The 32-bit handlers (R124) -/

theorem slotEntry_map_handler32 (f : Descriptor → Option Handler) (esc : Bool) (i : Nat) :
    ∀ (ds : List Descriptor) (e : TableEntry),
      slotEntry (ds.map fun d => { d with handler32 := f d }) esc e i = slotEntry ds esc e i
  | [], _ => rfl
  | d :: ds, e => by
    rw [List.map_cons, slotEntry_cons, slotEntry_cons]
    exact slotEntry_map_handler32 f esc i ds _

/-- Settles O20: no slot depends on `handler32`, and a slot that holds a handler got it from a
descriptor of its byte. -/
theorem handler32IsNeverRead : Obligations.Handler32IsNeverRead := by
  unfold Obligations.Handler32IsNeverRead
  refine fun ds f => ⟨?_, fun sec b h => entry_buildTables_handler⟩
  simp only [buildTables, slotEntry_map_handler32 f]
  exact congrArg (Tables.mk _) (congrArg tableOf (funext fun i => slotEntry_map_handler32 f true i ds _))

/-! ## The install loop, slot by slot (R118) -/

theorem installDescriptor_primary (t : Tables) (d : Descriptor) (i : Nat) (hi : i < 256) :
    (installDescriptor t d).primary[i] =
      if d.escape == false && d.opcode.toNat == i then .handler d.handler16 else t.primary[i] := by
  unfold installDescriptor
  cases d.escape <;> simp [Vector.getElem_set]

theorem installDescriptor_secondary (t : Tables) (d : Descriptor) (i : Nat) (hi : i < 256) :
    (installDescriptor t d).secondary[i] =
      if d.escape == true && d.opcode.toNat == i then .handler d.handler16 else t.secondary[i] := by
  unfold installDescriptor
  cases d.escape <;> simp [Vector.getElem_set]

theorem foldl_installDescriptor_primary (i : Nat) (hi : i < 256) : ∀ (ds : List Descriptor) (t : Tables),
    (ds.foldl installDescriptor t).primary[i] = slotEntry ds false t.primary[i] i
  | [], _ => rfl
  | d :: ds, t => by
    rw [List.foldl_cons, foldl_installDescriptor_primary i hi ds, installDescriptor_primary t d i hi]
    rfl

theorem foldl_installDescriptor_secondary (i : Nat) (hi : i < 256) :
    ∀ (ds : List Descriptor) (t : Tables),
      (ds.foldl installDescriptor t).secondary[i] = slotEntry ds true t.secondary[i] i
  | [], _ => rfl
  | d :: ds, t => by
    rw [List.foldl_cons, foldl_installDescriptor_secondary i hi ds, installDescriptor_secondary t d i hi]
    rfl

theorem emptyTables_primary (i : Nat) (hi : i < 256) : emptyTables.primary[i] = .unhandled :=
  Vector.getElem_replicate hi

theorem emptyTables_secondary (i : Nat) (hi : i < 256) : emptyTables.secondary[i] = .notRouted :=
  Vector.getElem_replicate hi

/-- Settles O19: both tables agree slot by slot, each slot of the loop's tables being the fold over the
list that `slotEntry` is, and the router's slot being written last. -/
theorem buildTablesIsTheInstallLoop : Obligations.BuildTablesIsTheInstallLoop := by
  unfold Obligations.BuildTablesIsTheInstallLoop
  intro ds
  have primary : (buildTables ds).primary = (buildTablesLoop ds).primary := by
    refine Vector.ext fun i hi => ?_
    simp only [buildTables, buildTablesLoop, tableOf_getElem, Vector.getElem_set,
      foldl_installDescriptor_primary, emptyTables_primary, eq_comm (a := i)]
  have secondary : (buildTables ds).secondary = (buildTablesLoop ds).secondary := by
    refine Vector.ext fun i hi => ?_
    simp only [buildTables, buildTablesLoop, tableOf_getElem, foldl_installDescriptor_secondary,
      emptyTables_secondary]
  exact congrArg₂ Tables.mk primary secondary

/-! ## The baseline map (R95, R96) -/

theorem entry_baseline_router : baselineTables.entry false 0x0F = .escapeRouter := by
  unfold baselineTables; rw [entry_buildTables]; rfl

theorem entry_baseline_unmapped {b : Byte} (h : mappedOpcodes.contains b = false) :
    baselineTables.entry false b = .unhandled := by
  obtain ⟨b', bs, e, he⟩ := Laws.OpcodeEntry.unhandled b (by rw [Instr.wellFormed, h]; rfl)
  cases e
  exact he

/-- Every mapped byte but the escape byte is some descriptor's. -/
theorem mapped_named : ∀ b ∈ mappedOpcodes, b ≠ 0x0F → ∃ d ∈ baselineDescriptors, d.opcode = b := by
  decide

/-- A slot that a descriptor names holds a handler, whatever stands there before. -/
theorem slotEntry_named {esc : Bool} {i : Nat} : ∀ {ds : List Descriptor} {e : TableEntry},
    (∃ d ∈ ds, d.escape = esc ∧ d.opcode.toNat = i) → ∃ h, slotEntry ds esc e i = .handler h
  | [], _, hd => by simp at hd
  | d :: ds, e, hd => by
    rw [slotEntry_cons]
    by_cases hds : ∃ d ∈ ds, d.escape = esc ∧ d.opcode.toNat = i
    · exact slotEntry_named hds
    · obtain ⟨d', hm, he, hi⟩ := hd
      obtain rfl | hm := List.mem_cons.mp hm
      · obtain h | ⟨d'', -, -, h⟩ := slotEntry_cases esc i ds
          (if d'.escape == esc && d'.opcode.toNat == i then .handler d'.handler16 else e)
        · exact ⟨d'.handler16, by rw [h]; simp [he, hi]⟩
        · exact ⟨_, h⟩
      · exact absurd ⟨d', hm, he, hi⟩ hds

theorem baseline_no_escape : ∀ d ∈ baselineDescriptors, d.escape = false := by decide

theorem entry_baseline_mapped {b : Byte} (h : mappedOpcodes.contains b = true) (h0 : b ≠ 0x0F) :
    ∃ h, baselineTables.entry false b = .handler h := by
  obtain ⟨d, hd, rfl⟩ := mapped_named b (List.contains_iff_mem.mp h) h0
  have hn : d.opcode.toNat ≠ 0x0F := fun e => h0 (BitVec.eq_of_toNat_eq e)
  unfold baselineTables
  rw [entry_buildTables, if_neg (by decide), if_neg hn]
  exact slotEntry_named ⟨d, hd, baseline_no_escape d hd, rfl⟩

/-- Settles O18: the router is installed last, an unmapped byte is in no descriptor, a mapped one in
some, and none carries the escape flag. -/
theorem baselineOpcodeMap : Obligations.BaselineOpcodeMap := by
  unfold Obligations.BaselineOpcodeMap
  exact ⟨entry_baseline_router, fun b => entry_baseline_unmapped, fun b => entry_baseline_mapped,
    entry_baseline_secondary⟩

end Sys2Proof
end

section
/-! The round trip of 30_encoding: the ModRM decoder by shape of its byte, each handler's plan, and the
baseline decoder in both directions. -/

namespace Sys2Proof

/-! ## The ModRM decoder, by the shape of its byte (R93, R101, R133) -/

/-- What the ModRM decoder does after a byte `m`: no displacement, one byte of it, or two. Each shape
names the operand form, which is well formed and whose encoding the bytes are. -/
inductive ModRMShape (m : Byte) : Prop where
  | none (rm : RM) (wf : rm.wellFormed = true) (enc : encodeModRM rm (regField m) = [m])
      (fetches : Machine.rmFetches rm = [.byte])
      (plan : ∀ {α : Type} (k : RM → Field3 → Plan α), ∃ next, modRMPlan k = .byte next ∧
        next m = .note (.reg (regField m)) (.note (.operand rm) (k rm (regField m))))
  | byte (rm : Byte → RM) (wf : ∀ d, (rm d).wellFormed = true)
      (enc : ∀ d, encodeModRM (rm d) (regField m) = [m, d])
      (fetches : ∀ d, Machine.rmFetches (rm d) = [.byte, .byte])
      (plan : ∀ {α : Type} (k : RM → Field3 → Plan α), ∃ next, modRMPlan k = .byte next ∧
        next m = .note (.reg (regField m))
          (.byte fun d => .note (.operand (rm d)) (k (rm d) (regField m))))
  | word (rm : Word → RM) (wf : ∀ d, (rm d).wellFormed = true)
      (enc : ∀ d, encodeModRM (rm d) (regField m) = [m, lowByte d, highByte d])
      (fetches : ∀ d, Machine.rmFetches (rm d) = [.byte, .word])
      (plan : ∀ {α : Type} (k : RM → Field3 → Plan α), ∃ next, modRMPlan k = .byte next ∧
        next m = .note (.reg (regField m))
          (.word fun d => .note (.operand (rm d)) (k (rm d) (regField m))))

theorem modField_cases (m : Byte) : modField m = 3 ∨ modField m = 0 ∨ modField m = 1 ∨ modField m = 2 := by
  generalize modField m = x
  revert x; decide

/-- The ModRM byte of the fields of `m`, its `mod` known. -/
theorem modrmByte_of_mod {m : Byte} {x : BitVec 2} (h : modField m = x) :
    modrmByte x (regField m) (rmField m) = m := by
  rw [← h, modrmByte_fields]

theorem modRMShape (m : Byte) : ModRMShape m := by
  obtain h | h | h | h := modField_cases m
  · exact .none (.reg (rmField m)) rfl (by rw [encodeModRM, modrmByte_of_mod h]) rfl
      fun k => ⟨_, rfl, by simp [h]⟩
  · by_cases h6 : rmField m = 6
    · exact .word .direct (fun _ => rfl)
        (fun d => by rw [encodeModRM, ← h6, modrmByte_of_mod h]) (fun _ => rfl)
        fun k => ⟨_, rfl, by simp [h, h6]⟩
    · exact .none (.mem0 (EaBase.ofField (rmField m)))
        (by simpa [RM.wellFormed, EaBase.ofField_eq_bp] using h6)
        (by rw [encodeModRM, EaBase.toField_ofField, modrmByte_of_mod h]) rfl
        fun k => ⟨_, rfl, by simpa [h] using h6⟩
  · exact .byte (.mem8 (EaBase.ofField (rmField m))) (fun _ => rfl)
      (fun d => by rw [encodeModRM, EaBase.toField_ofField, modrmByte_of_mod h]) (fun _ => rfl)
      fun k => ⟨_, rfl, by simp [h]⟩
  · exact .word (.mem16 (EaBase.ofField (rmField m))) (fun _ => rfl)
      (fun d => by rw [encodeModRM, EaBase.toField_ofField, modrmByte_of_mod h]) (fun _ => rfl)
      fun k => ⟨_, rfl, by simp [h]⟩

/-- Decoding the encoding of an operand form. -/
theorem decodeModRM_encodeModRM {rm : RM} (h : rm.wellFormed = true) (reg : Field3) (rest : List Byte) :
    decodeModRM (encodeModRM rm reg ++ rest) = some ((rm, reg), rest) := by
  cases rm with
  | reg n => simp [encodeModRM, decodeModRM, modRMPlan, Plan.onBytes]
  | mem0 b =>
    have h6 : b.toField ≠ 6#3 := fun e => by rw [EaBase.toField_eq_six.mp e] at h; cases h
    simp [encodeModRM, decodeModRM, modRMPlan, Plan.onBytes, h6]
  | direct d => simp [encodeModRM, decodeModRM, modRMPlan, Plan.onBytes]
  | mem8 b d => simp [encodeModRM, decodeModRM, modRMPlan, Plan.onBytes]
  | mem16 b d => simp [encodeModRM, decodeModRM, modRMPlan, Plan.onBytes]

/-- What a plan that starts with the ModRM decoder reads starts with the encoding of an operand form. -/
theorem modRMPlan_onBytes_encode {α : Type} {k : RM → Field3 → Plan α} {bs rest : List Byte} {v : α}
    (h : (modRMPlan k).onBytes bs = some (v, rest)) :
    ∃ rm reg bs', rm.wellFormed = true ∧ bs = encodeModRM rm reg ++ bs' ∧
      (k rm reg).onBytes bs' = some (v, rest) := by
  cases bs with
  | nil => simp [modRMPlan, Plan.onBytes] at h
  | cons m bs =>
    cases modRMShape m with
    | none rm wf enc fetches plan =>
      obtain ⟨next, e, hn⟩ := plan k
      rw [e, Plan.onBytes, hn] at h
      exact ⟨rm, regField m, bs, wf, by rw [enc]; rfl, h⟩
    | byte rm wf enc fetches plan =>
      obtain ⟨next, e, hn⟩ := plan k
      rw [e, Plan.onBytes, hn] at h
      match bs, h with
      | d :: bs, h => exact ⟨rm d, regField m, bs, wf d, by rw [enc]; rfl, h⟩
    | word rm wf enc fetches plan =>
      obtain ⟨next, e, hn⟩ := plan k
      rw [e, Plan.onBytes, hn] at h
      match bs, h with
      | lo :: hi :: bs, h =>
        exact ⟨rm (wordOfBytes lo hi), regField m, bs, wf _, by rw [enc]; simp, h⟩

/-! ## The decoder, one byte at a time (R117, R121) -/

theorem decodeFrom_handler {t : Tables} {sec : Bool} {b : Byte} {h : Handler}
    (he : t.entry sec b = .handler h) {bs : List Byte} {r : Instr × List Byte}
    (hd : decodeHandler h b bs = some r) : decodeFrom t sec (b :: bs) = .ok r := by
  simp only [decodeFrom, he, hd]

theorem decodeFrom_unhandled {t : Tables} {sec : Bool} {b : Byte} (he : t.entry sec b = .unhandled)
    (bs : List Byte) : decodeFrom t sec (b :: bs) = .ok (.unhandled b, bs) := by
  simp only [decodeFrom, he]

theorem decodeFrom_notRouted {t : Tables} {sec : Bool} {b : Byte} (he : t.entry sec b = .notRouted)
    (bs : List Byte) : decodeFrom t sec (b :: bs) = .ok (.escape b, bs) := by
  simp only [decodeFrom, he]

theorem decodeFrom_router {t : Tables} {sec : Bool} {b : Byte} (he : t.entry sec b = .escapeRouter)
    (bs : List Byte) : decodeFrom t sec (b :: bs) = decodeFrom t true bs := by
  simp only [decodeFrom, he]

/-- The four ways a byte sequence decodes. -/
theorem decodeFrom_cases {t : Tables} {sec : Bool} {b : Byte} {bs rest : List Byte} {i : Instr}
    (h : decodeFrom t sec (b :: bs) = .ok (i, rest)) :
    (t.entry sec b = .unhandled ∧ i = .unhandled b ∧ rest = bs) ∨
    (t.entry sec b = .notRouted ∧ i = .escape b ∧ rest = bs) ∨
    (t.entry sec b = .escapeRouter ∧ decodeFrom t true bs = .ok (i, rest)) ∨
    ∃ hd, t.entry sec b = .handler hd ∧ decodeHandler hd b bs = some (i, rest) := by
  cases he : t.entry sec b with
  | unhandled => rw [decodeFrom_unhandled he] at h; cases h; exact .inl ⟨rfl, rfl, rfl⟩
  | notRouted => rw [decodeFrom_notRouted he] at h; cases h; exact .inr (.inl ⟨rfl, rfl, rfl⟩)
  | escapeRouter => rw [decodeFrom_router he] at h; exact .inr (.inr (.inl ⟨rfl, h⟩))
  | handler hd =>
    refine .inr (.inr (.inr ⟨hd, rfl, ?_⟩))
    cases hdec : decodeHandler hd b bs with
    | none => simp [decodeFrom, he, hdec] at h
    | some r => rw [decodeFrom_handler he hdec] at h; cases h; rfl

/-! ## Decoding an encoding -/

/-- A handler entry and its operand bytes decode to the instruction whose encoding they are. -/
theorem decode_encode_of_handler {i : Instr} {h : Handler} {b : Byte} {bs : List Byte}
    (henc : encode i = b :: bs) (he : baselineTables.entry false b = .handler h) (rest : List Byte)
    (hd : decodeHandler h b (bs ++ rest) = some (i, rest)) :
    decode baselineTables (encode i ++ rest) = .ok (i, rest) := by
  rw [henc]
  exact decodeFrom_handler he hd

/-- A handler whose plan is the ModRM decoder and then `k`, on the bytes of an operand form. -/
theorem onBytes_modRMPlan_encode {k : RM → Field3 → Plan Instr} {rm : RM} (h : rm.wellFormed = true)
    (reg : Field3) (bs : List Byte) :
    (modRMPlan k).onBytes (encodeModRM rm reg ++ bs) = (k rm reg).onBytes bs :=
  modRMPlan_onBytes_of_decodeModRM k (decodeModRM_encodeModRM h reg bs)

/-- Every handler reads back the operand bytes of its instruction's encoding. -/
theorem decodeHandler_encode {i : Instr} (hw : i.wellFormed = true) {b : Byte} {bs : List Byte}
    (henc : encode i = b :: bs) {h : Handler} (hentry : Laws.entryOf i = .handler h)
    (rest : List Byte) : decodeHandler h b (bs ++ rest) = some (i, rest) := by
  cases i with
  | escape | unhandled => cases hentry
  | segEs | segCs | segSs | segDs | segFs | segGs | sti => cases henc; cases hentry; rfl
  | jmpRel8 => cases henc; cases hentry; rfl
  | movR8Imm8 | movR16Imm16 | jmpRel16 | jmpPtr16 =>
    cases henc; cases hentry; simp [decodeHandler, operandPlan, Plan.onBytes]
  | movRm8R8 rm | movRm16R16 rm | movR8Rm8 _ rm | movR16Rm16 _ rm | movRm16Sreg rm | movSregRm16 _ rm =>
    cases henc; cases hentry
    simp only [decodeHandler, operandPlan, onBytes_modRMPlan_encode (rm := rm) hw, Plan.onBytes,
      Reg8.ofField_toField, Reg16.ofField_toField]
  | movRm8Imm8 rm src | movRm16Imm16 rm src =>
    cases henc; cases hentry
    obtain ⟨hrm, hsrc⟩ := Bool.and_eq_true_iff.mp hw
    simp only [decodeHandler, operandPlan, List.append_assoc, onBytes_modRMPlan_encode hrm]
    cases src with
    | value v => simp [ImmForm.regField, immBytes8, immBytes16, Plan.onBytes]
    | noMeaning reg =>
      have hreg : reg ≠ 0 := by simpa [ImmForm.wellFormed] using hsrc
      exact congrArg (Plan.onBytes · rest) (if_neg hreg)

/-- The first byte of every well-formed instruction's encoding finds the instruction's own entry. -/
theorem opcodeEntry : ∀ i : Instr, Laws.OpcodeEntry.Statement i
  | .segEs => Laws.OpcodeEntry.segEs
  | .segCs => Laws.OpcodeEntry.segCs
  | .segSs => Laws.OpcodeEntry.segSs
  | .segDs => Laws.OpcodeEntry.segDs
  | .segFs => Laws.OpcodeEntry.segFs
  | .segGs => Laws.OpcodeEntry.segGs
  | .movRm8R8 rm reg => Laws.OpcodeEntry.movRm8R8 rm reg
  | .movRm16R16 rm reg => Laws.OpcodeEntry.movRm16R16 rm reg
  | .movR8Rm8 reg rm => Laws.OpcodeEntry.movR8Rm8 reg rm
  | .movR16Rm16 reg rm => Laws.OpcodeEntry.movR16Rm16 reg rm
  | .movRm16Sreg rm sreg => Laws.OpcodeEntry.movRm16Sreg rm sreg
  | .movSregRm16 sreg rm => Laws.OpcodeEntry.movSregRm16 sreg rm
  | .movR8Imm8 reg imm => Laws.OpcodeEntry.movR8Imm8 reg imm
  | .movR16Imm16 reg imm => Laws.OpcodeEntry.movR16Imm16 reg imm
  | .movRm8Imm8 rm src => Laws.OpcodeEntry.movRm8Imm8 rm src
  | .movRm16Imm16 rm src => Laws.OpcodeEntry.movRm16Imm16 rm src
  | .jmpRel16 rel => Laws.OpcodeEntry.jmpRel16 rel
  | .jmpPtr16 off sel => Laws.OpcodeEntry.jmpPtr16 off sel
  | .jmpRel8 rel => Laws.OpcodeEntry.jmpRel8 rel
  | .sti => Laws.OpcodeEntry.sti
  | .escape b2 => Laws.OpcodeEntry.escape b2
  | .unhandled b => Laws.OpcodeEntry.unhandled b

/-- Settles O13: the first byte finds the instruction's entry; a handler reads back its operand bytes,
the router's second byte finds NOT_ROUTED, and an unhandled byte stands for itself. -/
theorem decodeOfEncode : Obligations.DecodeOfEncode := by
  unfold Obligations.DecodeOfEncode
  intro i rest hw
  obtain ⟨b, bs, henc, he⟩ := opcodeEntry i hw
  cases hi : Laws.entryOf i with
  | handler h =>
    exact decode_encode_of_handler henc (he.trans hi) rest (decodeHandler_encode hw henc hi rest)
  | escapeRouter =>
    cases i with
    | escape b2 =>
      exact (decodeFrom_router entry_baseline_router _).trans
        (decodeFrom_notRouted (entry_baseline_secondary b2) rest)
    | _ => cases hi
  | unhandled =>
    cases i with
    | unhandled b' => cases henc; exact decodeFrom_unhandled he rest
    | _ => cases hi
  | notRouted => cases i <;> cases hi

/-! ## Encoding what was decoded -/

/-- The opcode bytes of each handler under the baseline map (R95). -/
def Handler.isOpcode (h : Handler) (b : Byte) : Bool :=
  match h with
  | .override g => encode (overrideInstr g) == [b]
  | .movRm8R8 => b == 0x88
  | .movRm16R16 => b == 0x89
  | .movR8Rm8 => b == 0x8A
  | .movR16Rm16 => b == 0x8B
  | .movRm16Sreg => b == 0x8C
  | .movSregRm16 => b == 0x8E
  | .movR8Imm8 => opcodePlus 0b10110 (rmField b) == b
  | .movR16Imm16 => opcodePlus 0b10111 (rmField b) == b
  | .movRm8Imm8 => b == 0xC6
  | .movRm16Imm16 => b == 0xC7
  | .jmpRel16 => b == 0xE9
  | .jmpPtr16 => b == 0xEA
  | .jmpRel8 => b == 0xEB
  | .sti => b == 0xFB

theorem baseline_isOpcode : ∀ d ∈ baselineDescriptors, d.handler16.isOpcode d.opcode = true := by decide

theorem isOpcode_of_entry {sec : Bool} {b : Byte} {h : Handler}
    (he : baselineTables.entry sec b = .handler h) : h.isOpcode b = true := by
  obtain ⟨d, hd, rfl, rfl⟩ := entry_buildTables_handler he
  exact baseline_isOpcode d hd

/-- What a handler reads after one of its opcode bytes is the encoding of a well-formed instruction. -/
theorem encode_decodeHandler {h : Handler} {b : Byte} {bs rest : List Byte} {i : Instr}
    (hb : h.isOpcode b = true) (hd : decodeHandler h b bs = some (i, rest)) :
    i.wellFormed = true ∧ b :: bs = encode i ++ rest := by
  cases h with
  | override g =>
    cases hd
    rw [eq_of_beq hb]
    exact ⟨by cases g <;> rfl, rfl⟩
  | sti => cases hd; rw [eq_of_beq hb]; exact ⟨rfl, rfl⟩
  | jmpRel8 =>
    match bs, hd with
    | d :: bs, hd => cases hd; rw [eq_of_beq hb]; exact ⟨rfl, rfl⟩
  | movR8Imm8 =>
    match bs, hd with
    | v :: bs, hd => cases hd; exact ⟨rfl, by rw [encode, Reg8.toField_ofField, eq_of_beq hb]; rfl⟩
  | movR16Imm16 =>
    match bs, hd with
    | lo :: hi :: bs, hd =>
      cases hd; exact ⟨rfl, by rw [encode, Reg16.toField_ofField, eq_of_beq hb]; simp⟩
  | jmpRel16 =>
    match bs, hd with
    | lo :: hi :: bs, hd => cases hd; exact ⟨rfl, by simp [encode, eq_of_beq hb]⟩
  | jmpPtr16 =>
    match bs, hd with
    | a :: b :: c :: d :: bs, hd => cases hd; exact ⟨rfl, by simp [encode, eq_of_beq hb]⟩
  | movRm8R8 | movRm16R16 | movR8Rm8 | movR16Rm16 | movRm16Sreg | movSregRm16 =>
    simp only [decodeHandler, operandPlan] at hd
    obtain ⟨rm, reg, bs, hrm, rfl, e⟩ := modRMPlan_onBytes_encode hd
    cases e
    exact ⟨hrm, by simp [encode, eq_of_beq hb]⟩
  | movRm8Imm8 =>
    simp only [decodeHandler, operandPlan] at hd
    obtain ⟨rm, reg, bs, hrm, rfl, e⟩ := modRMPlan_onBytes_encode hd
    by_cases hreg : reg = 0
    · subst hreg
      match bs, e with
      | v :: bs, e =>
        cases e
        exact ⟨by simp [Instr.wellFormed, ImmForm.wellFormed, hrm],
          by simp [encode, ImmForm.regField, immBytes8, eq_of_beq hb]⟩
    · rw [if_neg hreg] at e
      cases e
      exact ⟨by simpa [Instr.wellFormed, ImmForm.wellFormed, hrm] using hreg,
        by simp [encode, ImmForm.regField, immBytes8, eq_of_beq hb]⟩
  | movRm16Imm16 =>
    simp only [decodeHandler, operandPlan] at hd
    obtain ⟨rm, reg, bs, hrm, rfl, e⟩ := modRMPlan_onBytes_encode hd
    by_cases hreg : reg = 0
    · subst hreg
      match bs, e with
      | lo :: hi :: bs, e =>
        cases e
        exact ⟨by simp [Instr.wellFormed, ImmForm.wellFormed, hrm],
          by simp [encode, ImmForm.regField, immBytes16, eq_of_beq hb]⟩
    · rw [if_neg hreg] at e
      cases e
      exact ⟨by simpa [Instr.wellFormed, ImmForm.wellFormed, hrm] using hreg,
        by simp [encode, ImmForm.regField, immBytes16, eq_of_beq hb]⟩

theorem unmapped_of_unhandled {b : Byte} (h : baselineTables.entry false b = .unhandled) :
    mappedOpcodes.contains b = false := by
  by_contra hm
  rw [Bool.not_eq_false] at hm
  by_cases h0 : b = 0x0F
  · rw [h0, entry_baseline_router] at h; cases h
  · obtain ⟨h', e⟩ := entry_baseline_mapped hm h0
    rw [e] at h; cases h

theorem eq_escape_of_router {b : Byte} (h : baselineTables.entry false b = .escapeRouter) : b = 0x0F := by
  obtain ⟨-, hb, -⟩ | e | ⟨d, -, -, e⟩ := entry_buildTables_cases baselineDescriptors false b
  · exact hb
  · cases e.symm.trans h
  · cases e.symm.trans h

theorem entry_primary_ne_notRouted (b : Byte) : baselineTables.entry false b ≠ .notRouted := by
  intro h
  obtain ⟨-, -, e⟩ | e | ⟨d, -, -, e⟩ := entry_buildTables_cases baselineDescriptors false b
  · cases e.symm.trans h
  · cases e.symm.trans h
  · cases e.symm.trans h

/-- Settles O14: each entry a byte can find gives one instruction back its bytes; the router is 0x0F
alone and every second byte is NOT_ROUTED. -/
theorem encodeOfDecode : Obligations.EncodeOfDecode := by
  unfold Obligations.EncodeOfDecode
  intro bs i rest h
  cases bs with
  | nil => cases h
  | cons b bs =>
    obtain ⟨he, rfl, rfl⟩ | ⟨he, -, -⟩ | ⟨he, h⟩ | ⟨hd, he, h⟩ := decodeFrom_cases h
    · exact ⟨by rw [Instr.wellFormed, unmapped_of_unhandled he]; rfl, rfl⟩
    · exact absurd he (entry_primary_ne_notRouted b)
    · rw [eq_escape_of_router he]
      match bs, h with
      | b2 :: bs, h =>
        rw [decodeFrom_notRouted (entry_baseline_secondary b2)] at h
        cases h
        exact ⟨rfl, rfl⟩
    · exact encode_decodeHandler (isOpcode_of_entry he) h

/-! ## How many bytes an instruction takes (R91, R100) -/

/-- A plan answers whenever it is given `n` bytes. -/
def Plan.FitsIn {α : Type} (p : Plan α) (n : Nat) : Prop :=
  ∀ bs : List Byte, n ≤ bs.length → ∃ v rest, p.onBytes bs = some (v, rest)

theorem Plan.fitsIn_done {α : Type} (v : α) (n : Nat) : (Plan.done v).FitsIn n :=
  fun bs _ => ⟨v, bs, rfl⟩

theorem Plan.FitsIn.byte {α : Type} {next : Byte → Plan α} {n : Nat} (h : ∀ b, (next b).FitsIn n) :
    (Plan.byte next).FitsIn (n + 1)
  | b :: bs, hn => h b bs (Nat.le_of_succ_le_succ hn)

theorem Plan.FitsIn.word {α : Type} {next : Word → Plan α} {n : Nat} (h : ∀ w, (next w).FitsIn n) :
    (Plan.word next).FitsIn (n + 2)
  | lo :: hi :: bs, hn => h (wordOfBytes lo hi) bs (by simpa using hn)
  | [b], hn => by simp at hn

/-- The ModRM decoder takes at most three bytes (R133). -/
theorem Plan.FitsIn.modRM {α : Type} {k : RM → Field3 → Plan α} {n : Nat}
    (h : ∀ rm reg, (k rm reg).FitsIn n) : (modRMPlan k).FitsIn (n + 3) := by
  intro bs hn
  match bs, hn with
  | m :: bs, hn =>
    have hbs : n + 2 ≤ bs.length := Nat.le_of_succ_le_succ hn
    cases modRMShape m with
    | none rm wf enc fetches plan =>
      obtain ⟨next, e, hnext⟩ := plan k
      rw [e, Plan.onBytes, hnext]
      exact h rm _ bs (by omega)
    | byte rm wf enc fetches plan =>
      obtain ⟨next, e, hnext⟩ := plan k
      rw [e, Plan.onBytes, hnext]
      exact FitsIn.byte (next := fun d => .note _ (k (rm d) _)) (fun d => h (rm d) _) bs (by omega)
    | word rm wf enc fetches plan =>
      obtain ⟨next, e, hnext⟩ := plan k
      rw [e, Plan.onBytes, hnext]
      exact FitsIn.word (next := fun d => .note _ (k (rm d) _)) (fun d => h (rm d) _) bs hbs

/-- After its opcode byte no handler takes more than five bytes. -/
theorem operandPlan_fitsIn (h : Handler) (b : Byte) : (operandPlan h b).FitsIn 5 := by
  have plain : ∀ k : RM → Field3 → Instr, (modRMPlan fun rm reg => .done (k rm reg)).FitsIn 5 :=
    fun k => (Plan.FitsIn.modRM fun rm reg => Plan.fitsIn_done _ 2)
  cases h with
  | override | sti => exact Plan.fitsIn_done _ _
  | movR8Imm8 | jmpRel8 => exact .byte fun _ => Plan.fitsIn_done _ 4
  | movR16Imm16 | jmpRel16 => exact .word fun _ => Plan.fitsIn_done _ 3
  | jmpPtr16 => exact .word fun _ => .word fun _ => Plan.fitsIn_done _ 1
  | movRm8R8 | movRm16R16 | movR8Rm8 | movR16Rm16 | movRm16Sreg | movSregRm16 =>
    simp only [operandPlan]
    exact plain _
  | movRm8Imm8 =>
    simp only [operandPlan]
    refine Plan.FitsIn.modRM (n := 2) fun rm reg => ?_
    split
    · exact .byte fun _ => Plan.fitsIn_done _ 1
    · exact Plan.fitsIn_done _ _
  | movRm16Imm16 =>
    simp only [operandPlan]
    refine Plan.FitsIn.modRM (n := 2) fun rm reg => ?_
    split
    · exact .word fun _ => Plan.fitsIn_done _ 0
    · exact Plan.fitsIn_done _ _

/-- Settles O15: an opcode byte and the five bytes that the longest operands take. -/
theorem sixBytesAlwaysDecode : Obligations.SixBytesAlwaysDecode := by
  unfold Obligations.SixBytesAlwaysDecode
  intro bs hlen
  match bs, hlen with
  | b :: b2 :: bs, hlen =>
    cases he : baselineTables.entry false b with
    | unhandled => exact ⟨_, _, decodeFrom_unhandled he _⟩
    | notRouted => exact ⟨_, _, decodeFrom_notRouted he _⟩
    | escapeRouter =>
      exact ⟨_, _, (decodeFrom_router he _).trans (decodeFrom_notRouted (entry_baseline_secondary b2) bs)⟩
    | handler h =>
      obtain ⟨i, rest, hd⟩ := operandPlan_fitsIn h b (b2 :: bs) (Nat.le_of_succ_le_succ hlen)
      exact ⟨i, rest, decodeFrom_handler he hd⟩

/-! ## Written-out words and forms -/

/-- Settles O16: each word runs the decoder on the baseline tables. -/
theorem specWordsDecode : Obligations.SpecWordsDecode := by
  unfold Obligations.SpecWordsDecode
  decide

/-- Settles O17: an operand form decodes from its encoding, and the bytes are the form's encoding. -/
theorem modRMFormsAndLengths : Obligations.ModRMFormsAndLengths := by
  unfold Obligations.ModRMFormsAndLengths
  constructor
  · intro reg rm lo hi rest
    have direct := decodeModRM_encodeModRM (rm := .direct (wordOfBytes lo hi)) rfl reg rest
    rw [encodeModRM, Machine.lowByte_wordOfBytes, Machine.highByte_wordOfBytes] at direct
    exact ⟨decodeModRM_encodeModRM (rm := .reg rm) rfl reg _, direct⟩
  · intro reg rm base lo hi rest hmem
    have hrm : rm = base.toField := by
      cases base <;> simp_all [EaBase.toField]
    subst hrm
    have mem16 := decodeModRM_encodeModRM (rm := .mem16 base (wordOfBytes lo hi)) rfl reg rest
    rw [encodeModRM, Machine.lowByte_wordOfBytes, Machine.highByte_wordOfBytes] at mem16
    refine ⟨fun h6 => ?_, decodeModRM_encodeModRM (rm := .mem8 base lo) rfl reg _, mem16⟩
    have hb : base ≠ .bp := fun e => h6 (EaBase.toField_eq_six.mpr e)
    exact decodeModRM_encodeModRM (rm := .mem0 base) (by simpa [RM.wellFormed] using hb) reg _

end Sys2Proof
end

section
/-! What every instruction and every tick keeps: one inversion of the opcode stage and of the tick, one
induction over the stage, and the whole-machine statements that follow from `Steady`. -/

namespace Sys2Proof.Machine

/-! ## What one round of the opcode stage, and one tick, can do (R110 to R117) -/

/-- Every way a round of the opcode stage answers a state. -/
theorem opcodeStage_cases {fuel : Nat} {sec : Bool} {s t : State}
    (h : opcodeStage (fuel + 1) sec s = .next t) :
    opcodeFetch s = .ended t ∨ ∃ b u, opcodeFetch s = .go b u ∧
      (exec (.unhandled b) u = .next t ∨ exec (.escape b) u = .next t ∨
        opcodeStage fuel true u = .next t ∨
        ∃ hd, u.tables.entry sec b = .handler hd ∧
          (fetchPlan (operandPlan hd b) u = .ended t ∨
            ∃ i v, fetchPlan (operandPlan hd b) u = .go i v ∧
              (exec i v = .next t ∨
                i.isPrefix = true ∧ ∃ w, exec i v = .next w ∧ opcodeStage fuel false w = .next t))) := by
  cases hf : opcodeFetch s with
  | ended u => rw [opcodeStage_ended hf] at h; cases h; exact .inl rfl
  | fault r => simp [opcodeStage, hf] at h
  | go b u =>
    refine .inr ⟨b, u, rfl, ?_⟩
    cases he : u.tables.entry sec b with
    | unhandled => rw [opcodeStage_unhandled hf he] at h; exact .inl h
    | notRouted => rw [opcodeStage_notRouted hf he] at h; exact .inr (.inl h)
    | escapeRouter => rw [opcodeStage_router hf he] at h; exact .inr (.inr (.inl h))
    | handler hd =>
      refine .inr (.inr (.inr ⟨hd, rfl, ?_⟩))
      cases hp : fetchPlan (operandPlan hd b) u with
      | ended v => rw [opcodeStage_fetch_ended hf he hp] at h; cases h; exact .inl rfl
      | fault r => simp [opcodeStage, hf, he, hp] at h
      | go i v =>
        rw [opcodeStage_handler hf he hp] at h
        refine .inr ⟨i, v, rfl, ?_⟩
        cases hx : exec i v with
        | next w =>
          by_cases hi : i.isPrefix = true
          · simp only [hx, hi, if_true] at h; exact .inr ⟨hi, w, rfl, h⟩
          · simp only [hx, hi] at h; exact .inl h
        | fault r => simp [hx] at h
        | refused r => simp [hx] at h

/-- A relation `R` between the ends of the stage follows from relations of its parts: `Q` over each part
that goes on, `R` over each part that ends the tick. -/
structure StageRule (Q R : State → State → Prop) : Prop where
  last : ∀ {s t u : State}, Q s t → R t u → R s u
  fetch_go : ∀ {s t : State} {b : Byte}, opcodeFetch s = .go b t → Q s t
  fetch_ended : ∀ {s t : State}, opcodeFetch s = .ended t → R s t
  plan_go : ∀ {p : Plan Instr} {s t : State} {i : Instr}, fetchPlan p s = .go i t → Q s t
  plan_ended : ∀ {p : Plan Instr} {s t : State}, fetchPlan p s = .ended t → R s t
  override : ∀ {i : Instr} {s t : State}, i.isPrefix = true → exec i s = .next t → Q s t
  exec : ∀ {i : Instr} {s t : State}, exec i s = .next t → R s t

theorem StageRule.opcodeStage {Q R : State → State → Prop} (r : StageRule Q R) :
    ∀ {fuel : Nat} {sec : Bool} {s t : State}, opcodeStage fuel sec s = .next t → R s t
  | 0, _, _, _, h => by cases h
  | fuel + 1, sec, s, t, h => by
    obtain hf | ⟨b, u, hf, hx | hx | hs | ⟨hd, -, hp | ⟨i, v, hp, hx | ⟨hi, w, hx, hs⟩⟩⟩⟩ :=
      opcodeStage_cases h
    · exact r.fetch_ended hf
    · exact r.last (r.fetch_go hf) (r.exec hx)
    · exact r.last (r.fetch_go hf) (r.exec hx)
    · exact r.last (r.fetch_go hf) (r.opcodeStage hs)
    · exact r.last (r.fetch_go hf) (r.plan_ended hp)
    · exact r.last (r.fetch_go hf) (r.last (r.plan_go hp) (r.exec hx))
    · exact r.last (r.fetch_go hf) (r.last (r.plan_go hp) (r.last (r.override hi hx) (r.opcodeStage hs)))

theorem deriveSizes_32 {s : State} (hd : (s.seg .cs).access.d = true) :
    deriveSizes s = .ended (takeStop .size32 s) := by
  simp [deriveSizes, hd, stopUnimplemented]

theorem step_size32 {s : State} (hrun : s.isRunning) (hd : (s.seg .cs).access.d = true) :
    step s = .next (takeStop .size32 s) := by
  rw [step, tick, hrun]
  simp [prelude, deriveSizes_32 hd]

theorem step_16 {s : State} (hrun : s.isRunning) (hd : (s.seg .cs).access.d = false) :
    step s = opcodeStage lengthLimit false (tickStart s) := by
  rw [step, tick, hrun]
  simp only [prelude_16 hd, runDecode]

theorem step_stopped {s : State} {r : StopReason} (h : s.status = .stopped r) :
    step s = .fault (.stopped r) := by
  simp only [step, tick, h]

/-- A machine that steps runs; a 32-bit code segment stops it, a 16-bit one lets the engine in. -/
theorem step_cases {s t : State} (h : step s = .next t) : s.isRunning ∧
    ((s.seg .cs).access.d = true ∧ t = takeStop .size32 s ∨
      (s.seg .cs).access.d = false ∧ opcodeStage lengthLimit false (tickStart s) = .next t) := by
  cases hst : s.status with
  | stopped r => rw [step_stopped hst] at h; cases h
  | running =>
    refine ⟨hst, ?_⟩
    cases hd : (s.seg .cs).access.d with
    | true => rw [step_size32 hst hd] at h; cases h; exact .inl ⟨rfl, rfl⟩
    | false => rw [step_16 hst hd] at h; exact .inr ⟨rfl, h⟩

/-! ## Every instruction is steady -/

theorem steady_setOverride (g : Seg) (s : State) : Steady s (setOverride g s) :=
  steady_setCtx (c := { s.ctx with override := some g }) id

theorem steady_stopUnimplemented {α : Type} (r : StopReason) (s : State) :
    (stopUnimplemented (α := α) r s).KeepsSteady s := steady_takeStop r s

theorem Flow.KeepsSteady.andThen {α : Type} {s : State} {x : Flow α} {f : α → State → State}
    (hx : x.KeepsSteady s) (hf : ∀ v u, Steady u (f v u)) :
    (x.bind fun v u => .go () (f v u)).KeepsSteady s := hx.bind hf

/-- A part of an instruction that begins by selecting its operand. -/
theorem Flow.KeepsSteady.afterSelect {α : Type} {s t : State} {rm : RM} {x : Flow α}
    (hx : x.KeepsSteady (s.selectRM rm)) (h : x.outcome = .next t) : Steady s t :=
  (hx.after (steady_selectRM s rm)).outcome h

theorem steady_exec {i : Instr} {s t : State} (h : exec i s = .next t) : Steady s t := by
  have stop : ∀ {rm r}, (stopUnimplemented (α := Unit) r (s.selectRM rm)).outcome = .next t → Steady s t :=
    fun h => (steady_stopUnimplemented _ _).afterSelect h
  cases i with
  | segEs | segCs | segSs | segDs | segFs | segGs => cases h; exact steady_setOverride _ s
  | movRm8R8 rm reg => exact (steady_writeRM8 _ _).afterSelect h
  | movRm16R16 rm reg => exact (steady_writeRM16 _ _).afterSelect h
  | movR8Rm8 reg rm => exact ((steady_readRM8 _).andThen fun v u => steady_setR8 u reg v).afterSelect h
  | movR16Rm16 reg rm => exact ((steady_readRM16 _).andThen fun v u => steady_setR16 u reg v).afterSelect h
  | movRm16Sreg rm sreg =>
    simp only [exec, execMovRm16Sreg] at h
    split at h
    · exact stop h
    · exact (steady_writeRM16 _ _).afterSelect h
  | movSregRm16 sreg rm =>
    simp only [exec, execMovSregRm16] at h
    split at h
    · exact stop h
    · exact ((steady_readRM16 _).bind fun v u => steady_loadSegment _ v u).afterSelect h
  | movR8Imm8 reg imm => cases h; exact steady_setR8 s reg imm
  | movR16Imm16 reg imm => cases h; exact steady_setR16 s reg imm
  | movRm8Imm8 rm src =>
    cases src with
    | value v => exact (steady_writeRM8 _ _).afterSelect h
    | noMeaning reg => exact stop h
  | movRm16Imm16 rm src =>
    cases src with
    | value v => exact (steady_writeRM16 _ _).afterSelect h
    | noMeaning reg => exact stop h
  | jmpRel16 | jmpRel8 => cases h; exact steady_setIp s _
  | jmpPtr16 off sel =>
    exact Flow.KeepsSteady.outcome ((steady_loadSegment .cs sel s).andThen fun _ u => steady_setIp u _) h
  | sti => cases h; exact steady_setDeferredIe s true
  | escape b => cases h; exact steady_catchFault _ s
  | unhandled b => cases h; exact steady_emit s _

/-! ## Every tick is steady from where the prelude leaves it -/

theorem Flow.KeepsSteady.of_go {α : Type} {s t : State} {x : Flow α} {v : α} (hx : x.KeepsSteady s)
    (h : x = .go v t) : Steady s t := by
  subst h; exact hx

theorem Flow.KeepsSteady.of_ended {α : Type} {s t : State} {x : Flow α} (hx : x.KeepsSteady s)
    (h : x = .ended t) : Steady s t := by
  subst h; exact hx

theorem stageRule_steady : StageRule Steady Steady where
  last := Steady.trans
  fetch_go h := (steady_opcodeFetch _).of_go h
  fetch_ended h := (steady_opcodeFetch _).of_ended h
  plan_go h := (steady_fetchPlan _ _).of_go h
  plan_ended h := (steady_fetchPlan _ _).of_ended h
  override _ h := steady_exec h
  exec h := steady_exec h

theorem steady_opcodeStage {fuel : Nat} {sec : Bool} {s t : State}
    (h : opcodeStage fuel sec s = .next t) : Steady s t := stageRule_steady.opcodeStage h

@[simp] theorem tickStart_mem (s : State) : (tickStart s).mem = s.mem := State.mem_congr (tickStart_device s)
@[simp] theorem tickStart_opsize (s : State) : (tickStart s).opsize = .bits16 := by
  unfold tickStart applyDeferredIe; split <;> rfl
@[simp] theorem tickStart_addrsize (s : State) : (tickStart s).addrsize = .bits16 := by
  unfold tickStart applyDeferredIe; split <;> rfl
@[simp] theorem tickStart_seg (s : State) (g : Seg) : (tickStart s).seg g = s.seg g :=
  State.seg_congr (tickStart_segs s) g
@[simp] theorem tickStart_protectedMode (s : State) : (tickStart s).protectedMode = s.protectedMode :=
  State.protectedMode_congr (tickStart_cr0 s)

/-- The prelude writes `flags` when the deferred enable is pending: IF, and the reserved bit that every
write of `flags` stores. -/
theorem tickStart_flags (s : State) : (tickStart s).flags =
    if s.deferredIe then s.flags ||| flagReserved ||| flagIF else s.flags := by
  cases h : s.deferredIe with
  | false => simp [tickStart, applyDeferredIe, resetContext, h]
  | true =>
    rw [tickStart_of_deferredIe h]
    simp only [if_true, State.setDeferredIe_flags, State.setInterruptEnable, State.writeFlags,
      State.readFlags, resetContext, State.setCtx_flags, State.setSizes_flags]
    ext i hi
    simp only [BitVec.getElem_or]
    grind

/-- A tick that gets past its prelude is steady from there; one that does not is a stop. -/
theorem step_steady {s t : State} (h : step s = .next t) :
    t = takeStop .size32 s ∨ (s.seg .cs).access.d = false ∧ Steady (tickStart s) t := by
  obtain ⟨-, ⟨-, ht⟩ | ⟨hd, hs⟩⟩ := step_cases h
  · exact .inl ht
  · exact .inr ⟨hd, steady_opcodeStage hs⟩

/-! ## The invariant -/

theorem State.reservedFlagSet_tickStart {s : State} (h : s.reservedFlagSet) :
    (tickStart s).reservedFlagSet := by
  unfold State.reservedFlagSet at *
  rw [tickStart_flags]
  split
  · simp [h]
  · exact h

theorem State.Inv.tickStart {s : State} (h : s.Inv) : (tickStart s).Inv where
  mem := by rw [tickStart_mem]; exact h.mem
  ctx := by rw [State.ctxBounded, tickStart_ctx]; exact Nat.zero_le _
  flag := State.reservedFlagSet_tickStart h.flag
  mode := by
    obtain ⟨hreal, hd, -, -⟩ := h.mode
    exact ⟨(tickStart_protectedMode s).trans hreal, by rw [tickStart_seg]; exact hd,
      tickStart_opsize s, tickStart_addrsize s⟩
  limits g := by rw [tickStart_seg]; exact h.limits g

theorem State.Inv.steady {s t : State} (h : s.Inv) (a : Steady s t) : t.Inv where
  mem := a.mem h.mem
  ctx := a.ctx h.ctx
  flag := by rw [State.reservedFlagSet, a.flags]; exact h.flag
  mode := by
    obtain ⟨hreal, hd, hop, haddr⟩ := h.mode
    exact ⟨(State.protectedMode_congr a.cr0).trans hreal, a.defaultSize hd, a.opsize.trans hop,
      a.addrsize.trans haddr⟩
  limits g := (a.limit g).trans (h.limits g)

/-- Settles O52: the prelude keeps the invariant and what follows it is steady. -/
theorem stepKeepsTheInvariant : Obligations.StepKeepsTheInvariant := by
  unfold Obligations.StepKeepsTheInvariant
  intro s t hinv h
  obtain rfl | ⟨-, a⟩ := step_steady h
  · exact hinv.steady (steady_takeStop _ s)
  · exact hinv.tickStart.steady a

/-! ## Configuration, observations and flags -/

theorem State.onReference_iff_isReference {s : State} : s.onReference ↔ s.device.isReference = true := by
  rw [State.onReference_iff]
  cases s.device <;> simp [Device.isReference]

/-- Settles O56: neither the prelude nor a steady tick changes any of it. -/
theorem configurationNeverChanges : Obligations.ConfigurationNeverChanges := by
  unfold Obligations.ConfigurationNeverChanges
  intro s t h
  simp only [State.onReference_iff_isReference]
  obtain rfl | ⟨-, a⟩ := step_steady h
  · have a := steady_takeStop .size32 s
    exact ⟨a.cr0, a.tables, a.lenCounts, by rw [a.isReference], a.limit⟩
  · exact ⟨by rw [a.cr0, tickStart_cr0], by rw [a.tables, tickStart_tables],
      by rw [a.lenCounts, tickStart_lenCounts], by rw [a.isReference, tickStart_device],
      fun g => by rw [a.limit, tickStart_seg]⟩

/-- Settles O57: the prelude leaves the three lists and a steady tick extends them. -/
theorem observationsOnlyGrow : Obligations.ObservationsOnlyGrow := by
  unfold Obligations.ObservationsOnlyGrow
  intro s t h
  obtain rfl | ⟨-, a⟩ := step_steady h
  · have a := steady_takeStop .size32 s
    exact ⟨a.faults, a.trace, a.busLog⟩
  · exact ⟨tickStart_faults s ▸ a.faults, tickStart_trace s ▸ a.trace, tickStart_busLog s ▸ a.busLog⟩

/-- Settles O22: every instruction and every part of a tick after the prelude is steady, so `flags` ends
as the prelude left it. -/
theorem flagsChangeOnlyByTheDeferredEnable : Obligations.FlagsChangeOnlyByTheDeferredEnable := by
  unfold Obligations.FlagsChangeOnlyByTheDeferredEnable
  refine ⟨fun i s t h => (steady_exec h).flags, fun s t hd h => ?_⟩
  obtain ⟨hrun, -⟩ := step_cases h
  rw [step_16 hrun hd] at h
  rw [(steady_opcodeStage h).flags, tickStart_flags]

/-- Settles O23: the stop is the status and one event. -/
theorem defaultSize32StopsTheTick : Obligations.DefaultSize32StopsTheTick := by
  unfold Obligations.DefaultSize32StopsTheTick
  exact fun s hrun hd => step_size32 hrun hd

/-! ## Reset -/

/-- PE is clear at reset. -/
theorem State.init_protectedMode (p : Launch) : (State.init p).protectedMode = false := by
  show resetCr0.getLsbD 0 = false
  decide

/-- The first fetch of a run (R240). -/
theorem State.init_codeAddress (p : Launch) : codeAddress (State.init p) = 0x00FFFFF0 := by
  show resetCs.base + resetIp = 0x00FFFFF0
  decide

/-- The reserved bit is set and IF is clear at reset. -/
theorem resetFlags_bits : resetFlags.getLsbD 1 = true ∧ (resetFlags ||| flagReserved).getLsbD 9 = false := by
  decide

/-- Settles O50: `init` writes each of these values down. -/
theorem initEstablishesTheResetState : Obligations.InitEstablishesTheResetState := by
  unfold Obligations.InitEstablishesTheResetState
  intro p
  have limits : ∀ g, ((State.init p).seg g).limit = 0xFFFF := fun g => by cases g <;> rfl
  have accesses : ∀ g, g ≠ .cs → ((State.init p).seg g).access = accDefault := fun g hg => by
    cases g with
    | cs => exact absurd rfl hg
    | _ => rfl
  have registers : ∀ n : Field3, (State.init p).r16 (Reg16.ofField n) = p.gprInit[n.toNat]'n.isLt :=
    fun n => by
      obtain ⟨⟨n, hn⟩⟩ := n
      match n, hn with
      | 0, _ | 1, _ | 2, _ | 3, _ | 4, _ | 5, _ | 6, _ | 7, _ => rfl
  exact ⟨rfl, rfl, rfl, limits, accesses, rfl, rfl, rfl, rfl, rfl, rfl, rfl, rfl, rfl, rfl, registers,
    rfl, rfl, resetFlags_bits.2, rfl, State.init_protectedMode p, rfl, rfl, rfl, rfl, rfl, rfl, rfl, rfl,
    rfl, rfl, State.init_codeAddress p⟩

theorem State.inv_init {p : Launch} (h : Memory.wf p.memInit = true) : (State.init p).Inv where
  mem := by
    show (launchDevice p).mem.wf = true
    unfold launchDevice
    cases p.bus with
    | reference => exact h
    | injected c => rfl
  ctx := Nat.zero_le _
  flag := resetFlags_bits.1
  mode := ⟨State.init_protectedMode p, rfl, rfl, rfl⟩
  limits g := by cases g <;> rfl

/-- Settles O51: only the memory of the launch is not a value that `init` fixes. -/
theorem initMeetsTheInvariant : Obligations.InitMeetsTheInvariant := by
  unfold Obligations.InitMeetsTheInvariant
  exact ⟨fun p => State.inv_init, State.inv_init Memory.wf_nil⟩

end Sys2Proof.Machine
end

section
/-! The data-transfer instructions of 41_data_transfer: the r/m accessors once, as what they answer where
the operand can be accessed and where it cannot, then each instruction by them. -/

namespace Sys2Proof.Machine

/-! ## Registers and their halves (10_state section 1) -/

/-- A half write changes that half alone. -/
theorem onlyReg8_setR8 (s : State) (r : Reg8) (v : Byte) : OnlyReg8 r s (s.setR8 r v) := by
  refine ⟨fun q hq => State.r8_setR8_ne s v hq, ?_, ?_, ?_, ?_⟩ <;>
    exact State.r16_setR8_ne s v (by cases r <;> simp [Reg8.parent])

theorem onlyReg16_setR16 (s : State) (r : Reg16) (v : Word) : OnlyReg16 r s (s.setR16 r v) :=
  fun _ hq => State.r16_setR16_ne s v hq

/-- Settles O1: the numberings are finite tables, and a half write is the update of its parent. -/
theorem registerHalvesAliasTheirParent : Obligations.RegisterHalvesAliasTheirParent := by
  unfold Obligations.RegisterHalvesAliasTheirParent
  have low : ∀ n : Field3, n.toNat < 4 →
      (Reg8.ofField n).isHigh = false ∧ (Reg8.ofField n).parent = Reg16.ofField n := by decide
  have high : ∀ n : Field3, 4 ≤ n.toNat →
      (Reg8.ofField n).isHigh = true ∧ (Reg8.ofField n).parent = Reg16.ofField (n - 4) := by decide
  refine ⟨rfl, rfl, rfl, fun s n hn => ?_, fun s n hn => ?_, fun s r v => ?_⟩
  · obtain ⟨hh, hp⟩ := low n hn
    rw [State.r8, hh, hp]; rfl
  · obtain ⟨hh, hp⟩ := high n hn
    rw [State.r8, hh, hp]; rfl
  · exact ⟨State.r8_setR8_self s r v, onlyReg8_setR8 s r v, fun q hq => State.r16_setR8_ne s v hq⟩

/-- Settles O2: the second half write keeps the half that the first one wrote. -/
theorem bothHalvesMakeTheRegister : Obligations.BothHalvesMakeTheRegister := by
  unfold Obligations.BothHalvesMakeTheRegister
  intro s n lo hi hn
  have halves : ∀ n : Field3, n.toNat < 4 →
      ((Reg8.ofField n).isHigh = false ∧ (Reg8.ofField n).parent = Reg16.ofField n) ∧
      (Reg8.ofField (n + 4)).isHigh = true ∧ (Reg8.ofField (n + 4)).parent = Reg16.ofField n := by decide
  obtain ⟨⟨hlow, hlowp⟩, hhigh, hhighp⟩ := halves n hn
  generalize n + 4 = m at hhigh hhighp ⊢
  simp [State.setR8, hlow, hlowp, hhigh, hhighp]

/-! ## Frames -/

theorem ControlKept.trans {s t u : State} (a : ControlKept s t) (b : ControlKept t u) : ControlKept s u where
  flags := b.flags.trans a.flags
  cr0 := b.cr0.trans a.cr0
  opsize := b.opsize.trans a.opsize
  addrsize := b.addrsize.trans a.addrsize
  deferredIe := b.deferredIe.trans a.deferredIe
  tables := b.tables.trans a.tables
  status := b.status.trans a.status
  faults := b.faults.trans a.faults
  trace := b.trace.trans a.trace
  lenCounts := b.lenCounts.trans a.lenCounts
  bytes := b.bytes.trans a.bytes
  override := b.override.trans a.override

theorem controlKept_selectRM (s : State) (rm : RM) : ControlKept s (s.selectRM rm) := by
  constructor <;> rfl

theorem controlKept_setR8 (s : State) (r : Reg8) (v : Byte) : ControlKept s (s.setR8 r v) := by
  constructor <;> simp

theorem controlKept_setR16 (s : State) (r : Reg16) (v : Word) : ControlKept s (s.setR16 r v) := by
  constructor <;> rfl

theorem memKept_of_mem {s t : State} (h : t.mem = s.mem) : MemKept s t := fun a => by rw [h]

theorem memKept_of_device {s t : State} (h : t.device = s.device) : MemKept s t :=
  memKept_of_mem (State.mem_congr h)

theorem segsKept_of_segs {s t : State} (h : t.segs = s.segs) : SegsKept s t := State.seg_congr h

/-! ## The r/m accessors (R134) -/

/-- A form selects a register, or a segment and an effective address. -/
theorem selectOperand_cases (rm : RM) (s : State) :
    (isMemory rm = false ∧ ∃ n, selectOperand rm s = .reg n) ∨
      (isMemory rm = true ∧ ∃ g ea, selectOperand rm s = .mem g ea) := by
  cases rm with
  | reg n => exact .inl ⟨rfl, n, rfl⟩
  | mem0 | direct | mem8 | mem16 => exact .inr ⟨rfl, _, _, rfl⟩

/-- An operand that is not accessible is in memory, and the machine in protected mode. -/
theorem protectedMode_of_not_accessible {rm : RM} {s : State} (h : ¬ accessible rm s) :
    isMemory rm = true ∧ s.protectedMode = true := by
  simpa [accessible] using h

/-- The state after a read of the operand `o`, whose bus calls were `calls` and left the device `d`. -/
def afterRead (s : State) (rm : RM) (d : Device) (calls : List BusCall) : State :=
  { s.selectRM rm with device := d, busLog := s.busLog ++ calls }

theorem readRM8_accessible {rm : RM} {s : State} (h : accessible rm s) :
    ∃ v d, operandRead8 (selectOperand rm s) s = some (v, d) ∧ d.mem = s.mem ∧
      readRM8 (s.selectRM rm) = .go v (afterRead s rm d (loadCalls8 (selectOperand rm s) s)) := by
  obtain ⟨-, n, e⟩ | ⟨hm, g, ea, e⟩ := selectOperand_cases rm s
  · refine ⟨s.r8 (Reg8.ofField n), s.device, by rw [e]; rfl, rfl, ?_⟩
    simp [readRM8, afterRead, e, loadCalls8, State.setOperand, State.setCtx, State.r8, State.r16]
  · refine ⟨(s.device.readByte (operandAddress s g ea)).1, (s.device.readByte (operandAddress s g ea)).2,
      by rw [e]; rfl, Device.mem_readByte _ _, ?_⟩
    simp only [readRM8, State.selectRM_eq, State.setOperand_ctx, e]
    rw [segRead8_real (s := s.setOperand (.mem g ea)) (h hm), afterRead, State.selectRM_eq, e]
    rfl

theorem readRM16_accessible {rm : RM} {s : State} (h : accessible rm s) :
    ∃ v d, operandRead16 (selectOperand rm s) s = some (v, d) ∧ d.mem = s.mem ∧
      readRM16 (s.selectRM rm) = .go v (afterRead s rm d (loadCalls16 (selectOperand rm s) s)) := by
  obtain ⟨-, n, e⟩ | ⟨hm, g, ea, e⟩ := selectOperand_cases rm s
  · refine ⟨s.r16 (Reg16.ofField n), s.device, by rw [e]; rfl, rfl, ?_⟩
    simp [readRM16, afterRead, e, loadCalls16, State.setOperand, State.setCtx, State.r16]
  · refine ⟨(s.device.readWord (operandAddress s g ea)).1, (s.device.readWord (operandAddress s g ea)).2,
      by rw [e]; rfl, Device.mem_readWord _ _, ?_⟩
    simp only [readRM16, State.selectRM_eq, State.setOperand_ctx, e]
    rw [segRead16_real (s := s.setOperand (.mem g ea)) (h hm), afterRead, State.selectRM_eq, e]
    rfl

/-- What storing to an r/m operand leaves, whichever form it has: the bus calls made are `calls`. -/
structure RMWritten (calls : List BusCall) (s t : State) : Prop where
  segs : t.segs = s.segs
  ip : t.ip = s.ip
  control : ControlKept s t
  busLog : t.busLog = s.busLog ++ calls

theorem stored8_reference {s : State} (hr : s.onReference) (hwf : s.mem.wf = true) (a : Dword) (v : Byte) :
    (s.device.writeByte a v).mem.read8 a = v := by
  rw [hr]; exact Memory.read8_write8_self hwf a v

theorem stored16_reference {s : State} (hr : s.onReference) (hwf : s.mem.wf = true) (a : Dword) (v : Word) :
    (s.device.writeWord a v).mem.read8 a = lowByte v ∧
      (s.device.writeWord a v).mem.read8 (a + 1) = highByte v := by
  rw [hr]; exact ⟨Memory.read8_write16_low hwf a v, Memory.read8_write16_high hwf a v⟩

theorem writeRM8_accessible {rm : RM} {s : State} (h : accessible rm s) (v : Byte) :
    ∃ t, writeRM8 v (s.selectRM rm) = .go () t ∧
      RMWritten (storeCalls8 (selectOperand rm s) v s) s t ∧
      (s.mem.wf = true → Stored8 (selectOperand rm s) v s t) := by
  obtain ⟨-, n, e⟩ | ⟨hm, g, ea, e⟩ := selectOperand_cases rm s
  · have hgo : writeRM8 v (s.selectRM rm) = .go () ((s.selectRM rm).setR8 (Reg8.ofField n) v) := by
      simp only [writeRM8, State.selectRM_eq, State.setOperand_ctx, e]
    refine ⟨_, hgo, ⟨by simp, by simp,
      (controlKept_selectRM s rm).trans (controlKept_setR8 _ _ _), by simp [e, storeCalls8]⟩, fun _ => ?_⟩
    rw [e]
    exact ⟨State.r8_setR8_self _ _ _, onlyReg8_setR8 (s.selectRM rm) _ _, by simp,
      memKept_of_device (by simp)⟩
  · have hgo : writeRM8 v (s.selectRM rm) =
        .go () (busWriteByte (operandAddress s g ea) v (s.selectRM rm)) := by
      simp only [writeRM8, State.selectRM_eq, State.setOperand_ctx, e]
      exact segWrite8_real (s := s.setOperand (.mem g ea)) (h hm) g (eaOffset ea) v
    refine ⟨_, hgo, ⟨rfl, rfl, by constructor <;> rfl, by rw [e]; rfl⟩, fun hwf => ?_⟩
    rw [e]
    exact ⟨rfl, fun hr => stored8_reference hr hwf _ v,
      fun a ha => Device.read8_writeByte_ne _ _ (by simpa using ha), fun _ => rfl⟩

theorem writeRM16_accessible {rm : RM} {s : State} (h : accessible rm s) (v : Word) :
    ∃ t, writeRM16 v (s.selectRM rm) = .go () t ∧
      RMWritten (storeCalls16 (selectOperand rm s) v s) s t ∧
      (s.mem.wf = true → Stored16 (selectOperand rm s) v s t) := by
  obtain ⟨-, n, e⟩ | ⟨hm, g, ea, e⟩ := selectOperand_cases rm s
  · have hgo : writeRM16 v (s.selectRM rm) = .go () ((s.selectRM rm).setR16 (Reg16.ofField n) v) := by
      simp only [writeRM16, State.selectRM_eq, State.setOperand_ctx, e]
    refine ⟨_, hgo, ⟨by simp, by simp,
      (controlKept_selectRM s rm).trans (controlKept_setR16 _ _ _), by simp [e, storeCalls16]⟩, fun _ => ?_⟩
    rw [e]
    exact ⟨State.r16_setR16_self _ _ _, onlyReg16_setR16 (s.selectRM rm) _ _, by simp,
      memKept_of_device (by simp)⟩
  · have hgo : writeRM16 v (s.selectRM rm) =
        .go () (busWriteWord (operandAddress s g ea) v (s.selectRM rm)) := by
      simp only [writeRM16, State.selectRM_eq, State.setOperand_ctx, e]
      exact segWrite16_real (s := s.setOperand (.mem g ea)) (h hm) g (eaOffset ea) v
    refine ⟨_, hgo, ⟨rfl, rfl, by constructor <;> rfl, by rw [e]; rfl⟩, fun hwf => ?_⟩
    rw [e]
    exact ⟨rfl, fun hr => stored16_reference hr hwf _ v,
      fun a ha => Device.read8_writeWord_ne _ _ (by simp_all [wordAt]) (by simp_all [wordAt]), fun _ => rfl⟩

/-! ### Where the operand cannot be accessed (R64) -/

theorem readRM8_inaccessible {rm : RM} {s : State} (h : ¬ accessible rm s) :
    readRM8 (s.selectRM rm) = .ended (takeStop .protectedTranslation (s.selectRM rm)) := by
  obtain ⟨hm, hp⟩ := protectedMode_of_not_accessible h
  obtain ⟨hm', -⟩ | ⟨-, g, ea, e⟩ := selectOperand_cases rm s
  · rw [hm] at hm'; cases hm'
  · simp only [readRM8, State.selectRM_eq, State.setOperand_ctx, e]
    exact segRead8_protected (s := s.setOperand (.mem g ea)) hp g (eaOffset ea)

theorem readRM16_inaccessible {rm : RM} {s : State} (h : ¬ accessible rm s) :
    readRM16 (s.selectRM rm) = .ended (takeStop .protectedTranslation (s.selectRM rm)) := by
  obtain ⟨hm, hp⟩ := protectedMode_of_not_accessible h
  obtain ⟨hm', -⟩ | ⟨-, g, ea, e⟩ := selectOperand_cases rm s
  · rw [hm] at hm'; cases hm'
  · simp only [readRM16, State.selectRM_eq, State.setOperand_ctx, e]
    exact segRead16_protected (s := s.setOperand (.mem g ea)) hp g (eaOffset ea)

theorem writeRM8_inaccessible {rm : RM} {s : State} (h : ¬ accessible rm s) (v : Byte) :
    writeRM8 v (s.selectRM rm) = .ended (takeStop .protectedTranslation (s.selectRM rm)) := by
  obtain ⟨hm, hp⟩ := protectedMode_of_not_accessible h
  obtain ⟨hm', -⟩ | ⟨-, g, ea, e⟩ := selectOperand_cases rm s
  · rw [hm] at hm'; cases hm'
  · simp only [writeRM8, State.selectRM_eq, State.setOperand_ctx, e]
    exact segWrite8_protected (s := s.setOperand (.mem g ea)) hp g (eaOffset ea) v

theorem writeRM16_inaccessible {rm : RM} {s : State} (h : ¬ accessible rm s) (v : Word) :
    writeRM16 v (s.selectRM rm) = .ended (takeStop .protectedTranslation (s.selectRM rm)) := by
  obtain ⟨hm, hp⟩ := protectedMode_of_not_accessible h
  obtain ⟨hm', -⟩ | ⟨-, g, ea, e⟩ := selectOperand_cases rm s
  · rw [hm] at hm'; cases hm'
  · simp only [writeRM16, State.selectRM_eq, State.setOperand_ctx, e]
    exact segWrite16_protected (s := s.setOperand (.mem g ea)) hp g (eaOffset ea) v

/-! ## MOV to an r/m operand (R152, R153, R156, R157, R160) -/

theorem storeRM8_result {rm : RM} {s : State} (h : accessible rm s) (hwf : s.mem.wf = true) (v : Byte) :
    ∃ t, (writeRM8 v (s.selectRM rm)).outcome = .next t ∧ Stored8 (selectOperand rm s) v s t ∧
      SegsKept s t ∧ ControlKept s t ∧ t.ip = s.ip := by
  obtain ⟨t, hgo, a, hstored⟩ := writeRM8_accessible h v
  exact ⟨t, by rw [hgo]; rfl, hstored hwf, segsKept_of_segs a.segs, a.control, a.ip⟩

theorem storeRM16_result {rm : RM} {s : State} (h : accessible rm s) (hwf : s.mem.wf = true) (v : Word) :
    ∃ t, (writeRM16 v (s.selectRM rm)).outcome = .next t ∧ Stored16 (selectOperand rm s) v s t ∧
      SegsKept s t ∧ ControlKept s t ∧ t.ip = s.ip := by
  obtain ⟨t, hgo, a, hstored⟩ := writeRM16_accessible h v
  exact ⟨t, by rw [hgo]; rfl, hstored hwf, segsKept_of_segs a.segs, a.control, a.ip⟩

/-- Settles O34: the accessor stores the source register. -/
theorem movRm8R8Result : Obligations.MovRm8R8Result := by
  unfold Obligations.MovRm8R8Result
  exact fun rm reg s h hwf => storeRM8_result h hwf (s.r8 reg)

/-- Settles O35: the accessor stores the source register. -/
theorem movRm16R16Result : Obligations.MovRm16R16Result := by
  unfold Obligations.MovRm16R16Result
  exact fun rm reg s h hwf => storeRM16_result h hwf (s.r16 reg)

/-- Settles O38: the accessor stores the immediate. -/
theorem movRm8Imm8Result : Obligations.MovRm8Imm8Result := by
  unfold Obligations.MovRm8Imm8Result
  exact fun rm imm s h hwf => storeRM8_result h hwf imm

/-- Settles O39: the accessor stores the immediate. -/
theorem movRm16Imm16Result : Obligations.MovRm16Imm16Result := by
  unfold Obligations.MovRm16Imm16Result
  exact fun rm imm s h hwf => storeRM16_result h hwf imm

theorem exec_movRm16Sreg {sreg : Field3} {g : Seg} (h : Seg.ofField sreg = some g) (rm : RM) (s : State) :
    exec (.movRm16Sreg rm sreg) s = (writeRM16 (s.seg g).selector (s.selectRM rm)).outcome := by
  simp only [exec, execMovRm16Sreg, h]

/-- Settles O40: a `reg` field that names a segment stores its selector. -/
theorem movRm16SregResult : Obligations.MovRm16SregResult := by
  unfold Obligations.MovRm16SregResult
  intro rm sreg g s h hwf hmem
  have hg : Seg.ofField sreg = some g := by
    cases g <;> simp at hmem <;> subst hmem <;> rfl
  rw [exec_movRm16Sreg hg]
  exact storeRM16_result h hwf _

/-! ## MOV from an r/m operand (R154, R155, R161) -/

theorem exec_movR8Rm8 {rm : RM} {s : State} (h : accessible rm s) (reg : Reg8) :
    ∃ v d, operandRead8 (selectOperand rm s) s = some (v, d) ∧ d.mem = s.mem ∧
      exec (.movR8Rm8 reg rm) s =
        .next ((afterRead s rm d (loadCalls8 (selectOperand rm s) s)).setR8 reg v) := by
  obtain ⟨v, d, hread, hmem, hgo⟩ := readRM8_accessible h
  exact ⟨v, d, hread, hmem, by rw [exec, execMovR8Rm8, hgo]; rfl⟩

theorem exec_movR16Rm16 {rm : RM} {s : State} (h : accessible rm s) (reg : Reg16) :
    ∃ v d, operandRead16 (selectOperand rm s) s = some (v, d) ∧ d.mem = s.mem ∧
      exec (.movR16Rm16 reg rm) s =
        .next ((afterRead s rm d (loadCalls16 (selectOperand rm s) s)).setR16 reg v) := by
  obtain ⟨v, d, hread, hmem, hgo⟩ := readRM16_accessible h
  exact ⟨v, d, hread, hmem, by rw [exec, execMovR16Rm16, hgo]; rfl⟩

theorem controlKept_afterRead (s : State) (rm : RM) (d : Device) (calls : List BusCall) :
    ControlKept s (afterRead s rm d calls) := by
  constructor <;> rfl

/-- Settles O36: the operand is read with the registers as they were, then one half is written. -/
theorem movR8Rm8Result : Obligations.MovR8Rm8Result := by
  unfold Obligations.MovR8Rm8Result
  intro reg rm s h
  obtain ⟨v, d, hread, hmem, hx⟩ := exec_movR8Rm8 h reg
  refine ⟨_, hx, by rw [State.r8_setR8_self, State.setR8_device]; exact hread,
    onlyReg8_setR8 (afterRead s rm d _) reg v, fun g => by rw [State.seg_setR8]; rfl,
    memKept_of_mem (by rw [State.setR8_mem]; exact hmem),
    (controlKept_afterRead s rm d _).trans (controlKept_setR8 _ reg v), by rw [State.setR8_ip]; rfl⟩

/-- Settles O37: the operand is read with the registers as they were, then one register is written. -/
theorem movR16Rm16Result : Obligations.MovR16Rm16Result := by
  unfold Obligations.MovR16Rm16Result
  intro reg rm s h
  obtain ⟨v, d, hread, hmem, hx⟩ := exec_movR16Rm16 h reg
  exact ⟨_, hx, by rw [State.r16_setR16_self]; exact hread,
    onlyReg16_setR16 (afterRead s rm d _) reg v, fun _ => rfl, memKept_of_mem hmem,
    (controlKept_afterRead s rm d _).trans (controlKept_setR16 _ reg v), rfl⟩

theorem loadableSeg_of_ne_cs {sreg : Field3} {g : Seg} (h : Seg.ofField sreg = some g) (hg : g ≠ .cs) :
    loadableSeg sreg = some g := by
  have hne : sreg ≠ 1 := fun e => hg (by subst e; cases h; rfl)
  rw [loadableSeg, if_neg hne, h]

/-- In real mode the source is read and the segment loaded. -/
theorem exec_movSregRm16_real {sreg : Field3} {g : Seg} {s : State} (hs : loadableSeg sreg = some g)
    (hreal : s.protectedMode = false) (rm : RM) :
    ∃ v d, operandRead16 (selectOperand rm s) s = some (v, d) ∧ d.mem = s.mem ∧
      exec (.movSregRm16 sreg rm) s = .next ((afterRead s rm d (loadCalls16 (selectOperand rm s) s)).setSeg g
        (loadedSeg g v (s.seg g))) := by
  obtain ⟨v, d, hread, hmem, hgo⟩ := readRM16_accessible (rm := rm) (s := s) fun _ => hreal
  refine ⟨v, d, hread, hmem, ?_⟩
  simp only [exec, execMovSregRm16, hs, hgo, Flow.bind_go]
  rw [loadSegment_real (s := afterRead s rm d _) hreal]
  rfl

/-- Settles O41: the loaded descriptor is that of R31, whose access is kept but for CS. -/
theorem movSregRm16Result : Obligations.MovSregRm16Result := by
  unfold Obligations.MovSregRm16Result
  intro rm sreg g s hreal hmem
  have hg : Seg.ofField sreg = some g ∧ g ≠ .cs := by
    cases g <;> simp at hmem <;> subst hmem <;> exact ⟨rfl, by decide⟩
  obtain ⟨v, d, hread, hd, hx⟩ := exec_movSregRm16_real (loadableSeg_of_ne_cs hg.1 hg.2) hreal rm
  refine ⟨_, hx, ?_⟩
  rw [State.seg_setSeg_self]
  exact ⟨hread, rfl, rfl, if_neg hg.2, fun q hq => State.seg_setSeg_ne (afterRead s rm d _) _ hq,
    fun _ => rfl, memKept_of_mem hd, by constructor <;> rfl, rfl⟩

/-! ## A `reg` field with no meaning (D21) -/

theorem seg_ofField_none {n : Field3} (h : 6 ≤ n.toNat) : Seg.ofField n = none := by
  revert n; decide

theorem loadableSeg_none {n : Field3} (h : n = 1 ∨ 6 ≤ n.toNat) : loadableSeg n = none := by
  obtain rfl | h := h
  · rfl
  · unfold loadableSeg
    split
    · rfl
    · exact seg_ofField_none h

/-- Settles O42: each such instruction is the stop on the state where its operand was selected, and the
plans of C6 and C7 end there. -/
theorem meaninglessRegFieldStops : Obligations.MeaninglessRegFieldStops := by
  unfold Obligations.MeaninglessRegFieldStops
  constructor
  · intro rm s i r h
    have hx : exec i s = .next (takeStop r (s.selectRM rm)) := by
      obtain ⟨n, -, rfl, rfl⟩ | ⟨n, -, rfl, rfl⟩ | ⟨n, hn, rfl, rfl⟩ | ⟨n, hn, rfl, rfl⟩ := h
      · rfl
      · rfl
      · simp only [exec, execMovRm16Sreg, seg_ofField_none hn]; rfl
      · simp only [exec, execMovSregRm16, loadableSeg_none hn]; rfl
    exact ⟨_, hx, rfl, rfl, rfl, rfl, rfl, fun _ => rfl, fun _ => rfl, rfl, rfl, rfl⟩
  · intro b bs rest i rm n hn hdec
    have plan : ∀ {w : Nat} (k : RM → Field3 → Plan Instr) (f : ImmForm w → Instr),
        k rm n = .done (f (.noMeaning n)) →
        ((modRMPlan k).onBytes bs = some (i, rest) ↔ i = f (.noMeaning n)) := by
      intro w k f hk
      rw [modRMPlan_onBytes_of_decodeModRM k hdec, hk]
      simp [Plan.onBytes, eq_comm]
    simp only [decodeHandler, operandPlan]
    exact ⟨plan _ (.movRm8Imm8 rm) (if_neg hn), plan _ (.movRm16Imm16 rm) (if_neg hn)⟩

/-! ## MOV with an immediate into a register, jumps, overrides -/

/-- Settles O32: one half write. -/
theorem movR8Imm8Result : Obligations.MovR8Imm8Result := by
  unfold Obligations.MovR8Imm8Result
  exact fun reg imm s => ⟨s.setR8 reg imm, rfl, State.r8_setR8_self s reg imm, onlyReg8_setR8 s reg imm,
    State.seg_setR8 s reg imm, State.setR8_device s reg imm, memKept_of_device (State.setR8_device s reg imm),
    controlKept_setR8 s reg imm, State.setR8_ip s reg imm, State.setR8_busLog s reg imm⟩

/-- Settles O33: one register write. -/
theorem movR16Imm16Result : Obligations.MovR16Imm16Result := by
  unfold Obligations.MovR16Imm16Result
  exact fun reg imm s => ⟨s.setR16 reg imm, rfl, State.r16_setR16_self s reg imm,
    onlyReg16_setR16 s reg imm, fun _ => rfl, rfl, fun _ => rfl, controlKept_setR16 s reg imm, rfl, rfl⟩

/-- Settles O44: one write of `ip`. -/
theorem jmpRel8Target : Obligations.JmpRel8Target := by
  unfold Obligations.JmpRel8Target
  exact fun rel s => ⟨s.jumpRelative (signExtend16 rel), rfl, rfl, fun _ => rfl, fun _ => rfl, rfl,
    fun _ => rfl, by constructor <;> rfl, rfl⟩

/-- Settles O45: one write of `ip`. -/
theorem jmpRel16Target : Obligations.JmpRel16Target := by
  unfold Obligations.JmpRel16Target
  exact fun rel s => ⟨s.jumpRelative rel, rfl, rfl, fun _ => rfl, fun _ => rfl, rfl, fun _ => rfl,
    by constructor <;> rfl, rfl⟩

theorem exec_jmpPtr16_real {s : State} (h : s.protectedMode = false) (off sel : Word) :
    exec (.jmpPtr16 off sel) s = .next ((s.setSeg .cs (loadedSeg .cs sel (s.seg .cs))).jumpTo off) := by
  rw [exec, execJmpPtr16, loadSegment_real h]; rfl

/-- Settles O46: the segment load of R31 on CS, then one write of `ip`. -/
theorem farJumpLoadsCsAndIp : Obligations.FarJumpLoadsCsAndIp := by
  unfold Obligations.FarJumpLoadsCsAndIp
  exact fun off sel s hreal => ⟨_, exec_jmpPtr16_real hreal off sel, rfl,
    State.seg_setSeg_self s .cs (loadedSeg .cs sel (s.seg .cs)), fun q hq => State.seg_setSeg_ne s _ hq,
    fun _ => rfl, rfl, fun _ => rfl, by constructor <;> rfl, rfl⟩

/-- Settles O29: each writes the override, over whatever one stood there. -/
theorem segmentOverrideSetsTheOverride : Obligations.SegmentOverrideSetsTheOverride := by
  unfold Obligations.SegmentOverrideSetsTheOverride
  exact fun s => ⟨rfl, rfl, rfl, rfl, rfl, rfl, fun g h => ⟨setOverride g s, exec_overrideInstr g s,
    exec_overrideInstr h (setOverride g s)⟩⟩

/-- Settles O30: each row of the table is the row of `baseOffset` and `EaBase.defaultSeg`. -/
theorem effectiveAddressTable : Obligations.EffectiveAddressTable := by
  unfold Obligations.EffectiveAddressTable
  intro s d8 d16
  refine ⟨fun _ => rfl, rfl, fun b sum dflt hmem => ?_⟩
  have row : sum = baseOffset b s ∧ dflt = b.defaultSeg := by
    cases b <;> simp at hmem <;> exact hmem
  obtain ⟨rfl, rfl⟩ := row
  exact ⟨fun _ => rfl, rfl, rfl⟩

end Sys2Proof.Machine
end

section
/-! Progress and faults: every instruction answers a state, only an unrouted byte's instruction records a
fault, only two load a segment; the fetches before it answer one value, a stop or GP. -/

namespace Sys2Proof.Machine

/-! ## Every instruction answers (R110), and what it leaves of faults and segments -/

/-- The instruction answers a state in which the recorded faults and the segments are those of `s`. -/
def Answers (s : State) (o : Host.Outcome State Fault Refusal) : Prop :=
  ∃ t, o = .next t ∧ t.faults = s.faults ∧ t.segs = s.segs

/-- A stop records no fault and loads no segment. -/
theorem answers_stop (r : StopReason) (s : State) (rm : RM) :
    Answers s (stopUnimplemented (α := Unit) r (s.selectRM rm)).outcome := ⟨_, rfl, rfl, rfl⟩

theorem answers_writeRM8 (v : Byte) (s : State) (rm : RM) :
    Answers s (writeRM8 v (s.selectRM rm)).outcome := by
  by_cases h : accessible rm s
  · obtain ⟨t, hgo, a, -⟩ := writeRM8_accessible h v
    exact ⟨t, by rw [hgo]; rfl, a.control.faults, a.segs⟩
  · exact ⟨takeStop .protectedTranslation (s.selectRM rm), by rw [writeRM8_inaccessible h]; rfl, rfl, rfl⟩

theorem answers_writeRM16 (v : Word) (s : State) (rm : RM) :
    Answers s (writeRM16 v (s.selectRM rm)).outcome := by
  by_cases h : accessible rm s
  · obtain ⟨t, hgo, a, -⟩ := writeRM16_accessible h v
    exact ⟨t, by rw [hgo]; rfl, a.control.faults, a.segs⟩
  · exact ⟨takeStop .protectedTranslation (s.selectRM rm), by rw [writeRM16_inaccessible h]; rfl, rfl, rfl⟩

theorem answers_movR8Rm8 (reg : Reg8) (rm : RM) (s : State) : Answers s (exec (.movR8Rm8 reg rm) s) := by
  by_cases h : accessible rm s
  · obtain ⟨v, d, -, -, hx⟩ := exec_movR8Rm8 h reg
    exact ⟨_, hx, State.setR8_faults .., State.setR8_segs ..⟩
  · exact ⟨takeStop .protectedTranslation (s.selectRM rm),
      by rw [exec, execMovR8Rm8, readRM8_inaccessible h]; rfl, rfl, rfl⟩

theorem answers_movR16Rm16 (reg : Reg16) (rm : RM) (s : State) :
    Answers s (exec (.movR16Rm16 reg rm) s) := by
  by_cases h : accessible rm s
  · obtain ⟨v, d, -, -, hx⟩ := exec_movR16Rm16 h reg
    exact ⟨_, hx, rfl, rfl⟩
  · exact ⟨takeStop .protectedTranslation (s.selectRM rm),
      by rw [exec, execMovR16Rm16, readRM16_inaccessible h]; rfl, rfl, rfl⟩

/-- MOV Sreg loads its segment, or stops and loads none. -/
theorem exec_movSregRm16_cases (sreg : Field3) (rm : RM) (s : State) :
    Answers s (exec (.movSregRm16 sreg rm) s) ∨
      ∃ (g : Seg) (v : Word) (t : State), loadableSeg sreg = some g ∧ t.faults = s.faults ∧ t.segs = s.segs ∧
        exec (.movSregRm16 sreg rm) s = .next (t.setSeg g (loadedSeg g v (t.seg g))) := by
  cases hs : loadableSeg sreg with
  | none => exact .inl (by simpa only [exec, execMovSregRm16, hs] using answers_stop _ s rm)
  | some g =>
    simp only [exec, execMovSregRm16, hs]
    by_cases h : accessible rm s
    · obtain ⟨v, d, -, -, hgo⟩ := readRM16_accessible h
      rw [hgo, Flow.bind_go]
      cases hp : s.protectedMode with
      | true =>
        rw [loadSegment_protected (s := afterRead s rm d _) hp]
        exact .inl ⟨_, rfl, rfl, rfl⟩
      | false =>
        rw [loadSegment_real (s := afterRead s rm d _) hp]
        exact .inr ⟨g, v, afterRead s rm d _, rfl, rfl, rfl, rfl⟩
    · rw [readRM16_inaccessible h]
      exact .inl ⟨_, rfl, rfl, rfl⟩

/-- The far jump loads CS, or stops and loads nothing. -/
theorem exec_jmpPtr16_cases (off sel : Word) (s : State) :
    Answers s (exec (.jmpPtr16 off sel) s) ∨
      exec (.jmpPtr16 off sel) s = .next ((s.setSeg .cs (loadedSeg .cs sel (s.seg .cs))).jumpTo off) := by
  cases hp : s.protectedMode with
  | true =>
    refine .inl ⟨takeStop .protectedLoad s, ?_, rfl, rfl⟩
    rw [exec, execJmpPtr16, loadSegment_protected hp]; rfl
  | false => exact .inr (exec_jmpPtr16_real hp off sel)

/-- What every instruction can do: answer with faults and segments as they were; or record the fault of an
unrouted byte; or load a segment, by MOV Sreg or the far jump. -/
theorem exec_cases (i : Instr) (s : State) :
    Answers s (exec i s) ∨
    (∃ b, i = .escape b ∧ exec i s = .next (catchFault (notRoutedFault b) s)) ∨
    (∃ (sreg : Field3) (rm : RM) (g : Seg) (v : Word) (t : State), i = .movSregRm16 sreg rm ∧
      loadableSeg sreg = some g ∧ t.faults = s.faults ∧ t.segs = s.segs ∧
      exec i s = .next (t.setSeg g (loadedSeg g v (t.seg g)))) ∨
    (∃ off sel, i = .jmpPtr16 off sel ∧
      exec i s = .next ((s.setSeg .cs (loadedSeg .cs sel (s.seg .cs))).jumpTo off)) := by
  cases i with
  | segEs | segCs | segSs | segDs | segFs | segGs | sti | jmpRel8 | jmpRel16 | unhandled | movR16Imm16 =>
    exact .inl ⟨_, rfl, rfl, rfl⟩
  | movR8Imm8 reg imm => exact .inl ⟨_, rfl, State.setR8_faults .., State.setR8_segs ..⟩
  | movRm8R8 rm reg => exact .inl (answers_writeRM8 _ s rm)
  | movRm16R16 rm reg => exact .inl (answers_writeRM16 _ s rm)
  | movR8Rm8 reg rm => exact .inl (answers_movR8Rm8 reg rm s)
  | movR16Rm16 reg rm => exact .inl (answers_movR16Rm16 reg rm s)
  | movRm16Sreg rm sreg =>
    refine .inl ?_
    cases hs : Seg.ofField sreg with
    | none => simpa only [exec, execMovRm16Sreg, hs] using answers_stop _ s rm
    | some g => rw [exec_movRm16Sreg hs]; exact answers_writeRM16 _ s rm
  | movRm8Imm8 rm src =>
    cases src with
    | value v => exact .inl (answers_writeRM8 v s rm)
    | noMeaning reg => exact .inl (answers_stop _ s rm)
  | movRm16Imm16 rm src =>
    cases src with
    | value v => exact .inl (answers_writeRM16 v s rm)
    | noMeaning reg => exact .inl (answers_stop _ s rm)
  | escape b => exact .inr (.inl ⟨b, rfl, rfl⟩)
  | movSregRm16 sreg rm =>
    obtain h | ⟨g, v, t, hs, hf, hg, hx⟩ := exec_movSregRm16_cases sreg rm s
    · exact .inl h
    · exact .inr (.inr (.inl ⟨sreg, rm, g, v, t, rfl, hs, hf, hg, hx⟩))
  | jmpPtr16 off sel =>
    obtain h | hx := exec_jmpPtr16_cases off sel s
    · exact .inl h
    · exact .inr (.inr (.inr ⟨off, sel, rfl, hx⟩))

theorem exec_answers (i : Instr) (s : State) : ∃ t, exec i s = .next t := by
  obtain ⟨t, hx, -⟩ | ⟨b, -, hx⟩ | ⟨_, _, _, _, _, -, -, -, -, hx⟩ | ⟨_, _, -, hx⟩ := exec_cases i s
  · exact ⟨t, hx⟩
  · exact ⟨_, hx⟩
  · exact ⟨_, hx⟩
  · exact ⟨_, hx⟩

/-- Only the instruction of an unrouted byte records a fault (R122, R203). -/
theorem exec_faults {i : Instr} {s t : State} (h : exec i s = .next t) :
    t.faults = s.faults ∨ ∃ f, t = catchFault f s := by
  obtain ⟨u, hx, hf, -⟩ | ⟨b, -, hx⟩ | ⟨_, _, _, _, u, -, -, hf, -, hx⟩ | ⟨_, _, -, hx⟩ := exec_cases i s
  · cases h.symm.trans hx; exact .inl hf
  · cases h.symm.trans hx; exact .inr ⟨_, rfl⟩
  · cases h.symm.trans hx; exact .inl hf
  · cases h.symm.trans hx; exact .inl rfl

theorem seg_ofField_of_loadable {sreg : Field3} {g : Seg} (h : loadableSeg sreg = some g) :
    Seg.ofField sreg = some g ∧ g ≠ .cs := by
  revert sreg g
  unfold loadableSeg
  intro sreg g h
  split at h
  · cases h
  · next hne =>
    refine ⟨h, fun e => hne ?_⟩
    subst e
    revert sreg; decide

/-- A load changes the descriptor of its own segment alone. -/
theorem eq_of_seg_setSeg_ne {s : State} {g q : Seg} {d : SegDesc} (h : (s.setSeg g d).seg q ≠ s.seg q) :
    q = g := by
  by_contra hq
  exact h (State.seg_setSeg_ne s d hq)

/-- Settles O58: of the four things an instruction can do only the two loads touch a segment, and each
leaves the descriptor of R31 in its own. -/
theorem segmentsChangeOnlyByLoads : Obligations.SegmentsChangeOnlyByLoads := by
  unfold Obligations.SegmentsChangeOnlyByLoads
  intro i s t q h hne
  obtain ⟨u, hx, -, hsegs⟩ | ⟨b, -, hx⟩ | ⟨sreg, rm, g, v, u, rfl, hs, -, hsegs, hx⟩ |
    ⟨off, sel, rfl, hx⟩ := exec_cases i s
  · cases h.symm.trans hx
    exact absurd (State.seg_congr hsegs q) hne
  · cases h.symm.trans hx
    exact absurd rfl hne
  · cases h.symm.trans hx
    rw [← State.seg_congr hsegs] at hne
    obtain rfl := eq_of_seg_setSeg_ne hne
    obtain ⟨hg, hcs⟩ := seg_ofField_of_loadable hs
    rw [State.seg_setSeg_self]
    exact ⟨.inr ⟨hcs, sreg, rm, rfl, hg⟩, rfl⟩
  · cases h.symm.trans hx
    obtain rfl : q = .cs := eq_of_seg_setSeg_ne (s := s) hne
    exact ⟨.inl ⟨rfl, off, sel, rfl⟩, rfl⟩

/-! ## What fetches leave (R68, R114, R115) -/

/-- `t` differs from `s` at most as fetches make it: in `ip`, the context, the trace, the bus record and
the device, whose RAM no fetch writes. -/
structure FetchKept (s t : State) : Prop where
  regs : t.regs = s.regs
  segs : t.segs = s.segs
  mem : t.mem = s.mem
  cr0 : t.cr0 = s.cr0
  tables : t.tables = s.tables
  status : t.status = s.status
  faults : t.faults = s.faults

theorem FetchKept.refl (s : State) : FetchKept s s := ⟨rfl, rfl, rfl, rfl, rfl, rfl, rfl⟩

theorem FetchKept.trans {s t u : State} (a : FetchKept s t) (b : FetchKept t u) : FetchKept s u where
  regs := b.regs.trans a.regs
  segs := b.segs.trans a.segs
  mem := b.mem.trans a.mem
  cr0 := b.cr0.trans a.cr0
  tables := b.tables.trans a.tables
  status := b.status.trans a.status
  faults := b.faults.trans a.faults

/-- The two ways a fetch ends the tick: the protected-mode stop, or GP at the tenth byte. -/
def FetchEnded (s t : State) : Prop :=
  ∃ u, FetchKept s u ∧ (t = takeStop .protectedTranslation u ∨ t = catchFault gpFault u)

theorem FetchEnded.after {s t u : State} (a : FetchKept s t) (b : FetchEnded t u) : FetchEnded s u := by
  obtain ⟨v, k, hv⟩ := b
  exact ⟨v, a.trans k, hv⟩

/-- A fetch goes on with the context `n` bytes longer at least and the guard not reached, if it was not;
or it ends the tick. It hits no model fault. -/
def Flow.Fetches {α : Type} (n : Nat) (s : State) : Flow α → Prop
  | .go _ t => FetchKept s t ∧
      (s.ctx.len < lengthLimit → s.ctx.len + n ≤ t.ctx.len ∧ t.ctx.len < lengthLimit)
  | .ended t => FetchEnded s t
  | .fault _ => False

theorem Flow.Fetches.bind {α β : Type} {n m : Nat} {s : State} {x : Flow α} {f : α → State → Flow β}
    (hx : x.Fetches n s) (hf : ∀ v t, (f v t).Fetches m t) : (x.bind f).Fetches (n + m) s := by
  cases x with
  | go v t =>
    obtain ⟨a, hlen⟩ := hx
    have hy := hf v t
    rw [Flow.bind_go]
    cases h : f v t with
    | go w u =>
      rw [h] at hy
      obtain ⟨b, hlen'⟩ := hy
      refine ⟨a.trans b, fun hs => ?_⟩
      obtain ⟨h1, h2⟩ := hlen hs
      obtain ⟨h3, h4⟩ := hlen' h2
      exact ⟨by omega, h4⟩
    | ended u => rw [h] at hy; exact FetchEnded.after a hy
    | fault r => rw [h] at hy; exact hy
  | ended t => exact hx
  | fault r => exact hx

/-- An update that leaves the context's length and everything that fetches keep. -/
theorem Flow.fetches_go {α : Type} {s t : State} {v : α} (a : FetchKept s t) (h : t.ctx.len = s.ctx.len) :
    (Flow.go v t).Fetches 0 s := ⟨a, fun hs => by omega⟩

theorem fetches_physAddr (g : Seg) (off : Dword) (w : Width) (k : AccessKind) (s : State) :
    (physAddr g off w k s).Fetches 0 s := by
  cases hp : s.protectedMode with
  | true => rw [physAddr_protected hp]; exact ⟨s, .refl s, .inl rfl⟩
  | false => rw [physAddr_real hp]; exact Flow.fetches_go (.refl s) rfl

theorem fetchKept_readByte (a ip : Dword) (s : State) :
    FetchKept s ((busReadByte a s).2.setIp ip) :=
  ⟨rfl, rfl, Device.mem_readByte s.device a, rfl, rfl, rfl, rfl⟩

theorem fetchKept_readWord (a ip : Dword) (s : State) :
    FetchKept s ((busReadWord a s).2.setIp ip) :=
  ⟨rfl, rfl, Device.mem_readWord s.device a, rfl, rfl, rfl, rfl⟩

theorem fetchKept_emit (e : Event) (s : State) : FetchKept s (s.emit e) :=
  ⟨rfl, rfl, rfl, rfl, rfl, rfl, rfl⟩

theorem fetches_fetchCode8 (s : State) : (fetchCode8 s).Fetches 0 s :=
  (fetches_physAddr _ _ _ _ s).bind fun a t =>
    Flow.fetches_go (fetchKept_readByte a _ t) rfl

theorem fetches_fetchCode16 (s : State) : (fetchCode16 s).Fetches 0 s :=
  (fetches_physAddr _ _ _ _ s).bind fun a t =>
    Flow.fetches_go (fetchKept_readWord a _ t) rfl

theorem fetches_append (b : Byte) (s : State) : (append b s).Fetches 1 s := by
  unfold append
  split
  · exact ⟨s.setCtx (s.ctx.push b), ⟨rfl, rfl, rfl, rfl, rfl, rfl, rfl⟩, .inr rfl⟩
  · next hne =>
    refine ⟨⟨rfl, rfl, rfl, rfl, rfl, rfl, rfl⟩, fun hs => ?_⟩
    rw [Ctx.len_push_room hs] at hne
    rw [State.setCtx_ctx, Ctx.len_push_room hs]
    omega

theorem Flow.Fetches.mono {α : Type} {n m : Nat} {s : State} {x : Flow α} (h : x.Fetches n s)
    (hm : m ≤ n) : x.Fetches m s := by
  cases x with
  | go v t => exact ⟨h.1, fun hs => ⟨le_trans (by omega) (h.2 hs).1, (h.2 hs).2⟩⟩
  | ended t => exact h
  | fault r => exact h

theorem fetches_appendAll : ∀ (bs : List Byte) (s : State), (appendAll bs s).Fetches 0 s
  | [], s => Flow.fetches_go (.refl s) rfl
  | b :: bs, s => ((fetches_append b s).bind fun _ t => fetches_appendAll bs t).mono (Nat.zero_le _)

theorem fetches_countOperandBytes (bs : List Byte) (s : State) : (countOperandBytes bs s).Fetches 0 s := by
  unfold countOperandBytes
  split
  · exact fetches_appendAll bs s
  · exact Flow.fetches_go (.refl s) rfl

theorem fetches_hFetch8 (s : State) : (hFetch8 s).Fetches 0 s :=
  (fetches_fetchCode8 s).bind fun _ t => (fetches_countOperandBytes _ t).bind fun _ u =>
    Flow.fetches_go (.refl u) rfl

theorem fetches_hFetch16 (s : State) : (hFetch16 s).Fetches 0 s :=
  (fetches_fetchCode16 s).bind fun _ t => (fetches_countOperandBytes _ t).bind fun _ u =>
    Flow.fetches_go (.refl u) rfl

/-- An opcode byte is always counted (R114). -/
theorem fetches_opcodeFetch (s : State) : (opcodeFetch s).Fetches 1 s :=
  (fetches_fetchCode8 s).bind fun _ t => (fetches_append _ t).bind fun _ u =>
    Flow.fetches_go (fetchKept_emit _ u) rfl

theorem fetchKept_takeNote (s : State) (n : CtxNote) : FetchKept s (s.takeNote n) := by
  cases n <;> exact ⟨rfl, rfl, rfl, rfl, rfl, rfl, rfl⟩

theorem takeNote_len (s : State) (n : CtxNote) : (s.takeNote n).ctx.len = s.ctx.len := by
  cases n <;> rfl

theorem fetches_fetchPlan {α : Type} : ∀ (p : Plan α) (s : State), (fetchPlan p s).Fetches 0 s
  | .done _, s => Flow.fetches_go (.refl s) rfl
  | .note n p, s => (Flow.fetches_go (v := ()) (fetchKept_takeNote s n) (takeNote_len s n)).bind
      fun _ t => fetches_fetchPlan p t
  | .byte next, s => (fetches_hFetch8 s).bind fun v t => fetches_fetchPlan (next v) t
  | .word next, s => (fetches_hFetch16 s).bind fun v t => fetches_fetchPlan (next v) t

/-! ## Progress (D16, D17) -/

theorem eq_overrideInstr_of_isPrefix {i : Instr} (h : i.isPrefix = true) : ∃ g, i = overrideInstr g := by
  cases i with
  | segEs => exact ⟨.es, rfl⟩
  | segCs => exact ⟨.cs, rfl⟩
  | segSs => exact ⟨.ss, rfl⟩
  | segDs => exact ⟨.ds, rfl⟩
  | segFs => exact ⟨.fs, rfl⟩
  | segGs => exact ⟨.gs, rfl⟩
  | _ => cases h

theorem exec_of_isPrefix {i : Instr} (h : i.isPrefix = true) (s : State) :
    ∃ g, exec i s = .next (setOverride g s) := by
  obtain ⟨g, rfl⟩ := eq_overrideInstr_of_isPrefix h
  exact ⟨g, exec_overrideInstr g s⟩

/-- With room in the stage for every byte the guard lets pass, the stage answers: each round counts one
opcode byte at least. -/
theorem opcodeStage_answers : ∀ (fuel : Nat) (sec : Bool) (s : State), s.ctx.len < lengthLimit →
    lengthLimit ≤ s.ctx.len + fuel → ∃ t, opcodeStage fuel sec s = .next t
  | 0, _, s, hlen, hroom => by omega
  | fuel + 1, sec, s, hlen, hroom => by
    have hfetch := fetches_opcodeFetch s
    cases hf : opcodeFetch s with
    | ended u => exact ⟨u, opcodeStage_ended hf⟩
    | fault r => rw [hf] at hfetch; exact hfetch.elim
    | go b u =>
      rw [hf] at hfetch
      obtain ⟨-, hcount⟩ := hfetch
      obtain ⟨hmore, hbelow⟩ := hcount hlen
      cases he : u.tables.entry sec b with
      | unhandled => rw [opcodeStage_unhandled hf he]; exact exec_answers _ u
      | notRouted => rw [opcodeStage_notRouted hf he]; exact exec_answers _ u
      | escapeRouter => rw [opcodeStage_router hf he]; exact opcodeStage_answers fuel true u hbelow (by omega)
      | handler hd =>
        have hplan := fetches_fetchPlan (operandPlan hd b) u
        cases hp : fetchPlan (operandPlan hd b) u with
        | ended v => exact ⟨v, opcodeStage_fetch_ended hf he hp⟩
        | fault r => rw [hp] at hplan; exact hplan.elim
        | go i v =>
          rw [hp] at hplan
          obtain ⟨-, hcount'⟩ := hplan
          obtain ⟨hmore', hbelow'⟩ := hcount' hbelow
          rw [opcodeStage_handler hf he hp]
          by_cases hi : i.isPrefix = true
          · obtain ⟨g, hx⟩ := exec_of_isPrefix hi v
            simp only [hx, hi, if_true]
            exact opcodeStage_answers fuel false (setOverride g v) hbelow'
              (show lengthLimit ≤ v.ctx.len + fuel by omega)
          · obtain ⟨w, hx⟩ := exec_answers i v
            exact ⟨w, by simp only [hx, if_neg hi]⟩

theorem step_answers {s : State} (hrun : s.isRunning) : ∃ t, step s = .next t := by
  cases hd : (s.seg .cs).access.d with
  | true => exact ⟨_, step_size32 hrun hd⟩
  | false =>
    rw [step_16 hrun hd]
    have hlen : (tickStart s).ctx.len = 0 := by rw [tickStart_ctx]; rfl
    exact opcodeStage_answers _ _ _ (by rw [hlen]; decide) (by rw [hlen]; decide)

/-- Settles O53: no part of an instruction reaches a model fault, and the guard ends the stage within its
bound of ten bytes. -/
theorem runningMachineAlwaysSteps : Obligations.RunningMachineAlwaysSteps := by
  unfold Obligations.RunningMachineAlwaysSteps
  exact ⟨exec_answers, fun s => step_answers⟩

/-! ## `run` (R111) -/

theorem run_stopped {s : State} {r : StopReason} (h : s.status = .stopped r) (n : Nat) :
    run n s = .next s := by
  cases n with
  | zero => rfl
  | succ n => simp only [run, h]

theorem run_succ {s t : State} (hrun : s.isRunning) (h : step s = .next t) (n : Nat) :
    run (n + 1) s = run n t := by
  unfold State.isRunning at hrun
  simp only [run, hrun, h]

/-- Settles O54: neither `tick` nor `run` looks past the status of a stopped machine. -/
theorem stoppedMachineHasNoStep : Obligations.StoppedMachineHasNoStep := by
  unfold Obligations.StoppedMachineHasNoStep
  exact fun s r h => ⟨step_stopped h, run_stopped h⟩

/-- One tick of a run: the machine is stopped and stays, or it steps. -/
theorem stopped_or_steps (s : State) :
    (∃ r, s.status = .stopped r) ∨ (s.isRunning ∧ ∃ t, step s = .next t) := by
  cases h : s.status with
  | stopped r => exact .inl ⟨r, rfl⟩
  | running => exact .inr ⟨h, step_answers h⟩

theorem run_answers : ∀ (n : Nat) (s : State), ∃ t, run n s = .next t
  | 0, s => ⟨s, rfl⟩
  | n + 1, s => by
    obtain ⟨r, hst⟩ | ⟨hrun, t, ht⟩ := stopped_or_steps s
    · exact ⟨s, run_stopped hst _⟩
    · rw [run_succ hrun ht]; exact run_answers n t

theorem run_add : ∀ (m n : Nat) (s t : State), run m s = .next t → run (m + n) s = run n t
  | 0, n, s, t, h => by cases h; rw [Nat.zero_add]
  | m + 1, n, s, t, h => by
    obtain ⟨r, hst⟩ | ⟨hrun, u, hu⟩ := stopped_or_steps s
    · rw [run_stopped hst] at h
      cases h
      rw [run_stopped hst, run_stopped hst]
    · rw [run_succ hrun hu] at h
      rw [Nat.succ_add, run_succ hrun hu]
      exact run_add m n u t h

theorem run_one {s : State} (hrun : s.isRunning) : run 1 s = step s := by
  obtain ⟨t, ht⟩ := step_answers hrun
  rw [run_succ hrun ht, ht]; rfl

/-- Settles O55: runs compose, and a run of one tick of a running machine is its step. -/
theorem runIsRepeatedTicks : Obligations.RunIsRepeatedTicks := by
  unfold Obligations.RunIsRepeatedTicks
  exact ⟨run_answers, run_add, fun n s t h hrun => (run_add n 1 s t h).trans (run_one hrun)⟩

/-! ## What a tick that records a fault leaves (R212) -/

/-- How a tick ends that only fetches came before: with the recorded faults as they were, or with one
fault caught and nothing else written. -/
def FaultedEnd (s t : State) : Prop := t.faults = s.faults ∨ ∃ u f, FetchKept s u ∧ t = catchFault f u

theorem FaultedEnd.after {s t u : State} (a : FetchKept s t) (b : FaultedEnd t u) : FaultedEnd s u := by
  obtain h | ⟨v, f, k, hv⟩ := b
  · exact .inl (h.trans a.faults)
  · exact .inr ⟨v, f, a.trans k, hv⟩

theorem FetchEnded.faultedEnd {s t : State} (h : FetchEnded s t) : FaultedEnd s t := by
  obtain ⟨u, k, rfl | rfl⟩ := h
  · exact .inl ((takeStop_faults _ u).trans k.faults)
  · exact .inr ⟨u, gpFault, k, rfl⟩

theorem Flow.Fetches.of_go {α : Type} {n : Nat} {s t : State} {x : Flow α} {v : α} (hx : x.Fetches n s)
    (h : x = .go v t) : FetchKept s t := by
  subst h; exact hx.1

theorem Flow.Fetches.of_ended {α : Type} {n : Nat} {s t : State} {x : Flow α} (hx : x.Fetches n s)
    (h : x = .ended t) : FetchEnded s t := by
  subst h; exact hx

theorem stageRule_faultedEnd : StageRule FetchKept FaultedEnd where
  last := FaultedEnd.after
  fetch_go h := (fetches_opcodeFetch _).of_go h
  fetch_ended h := ((fetches_opcodeFetch _).of_ended h).faultedEnd
  plan_go h := (fetches_fetchPlan _ _).of_go h
  plan_ended h := ((fetches_fetchPlan _ _).of_ended h).faultedEnd
  override {i s t} hi hx := by
    obtain ⟨g, e⟩ := exec_of_isPrefix hi s
    cases hx.symm.trans e
    exact ⟨rfl, rfl, rfl, rfl, rfl, rfl, rfl⟩
  exec {i s t} hx := by
    obtain h | ⟨f, rfl⟩ := exec_faults hx
    · exact .inl h
    · exact .inr ⟨s, f, .refl s, rfl⟩

theorem fetchKept_tickStart (s : State) : FetchKept s (tickStart s) := by
  constructor <;> simp

/-- Settles O49: with more faults than before, the tick ended in one caught fault after nothing but the
prelude, fetches and overrides. -/
theorem faultedTickWritesNothing : Obligations.FaultedTickWritesNothing := by
  unfold Obligations.FaultedTickWritesNothing
  intro s t h hne
  obtain ⟨hrun, ⟨-, rfl⟩ | ⟨-, hs⟩⟩ := step_cases h
  · exact absurd (takeStop_faults _ s) hne
  · obtain hf | ⟨u, f, k, rfl⟩ :=
      FaultedEnd.after (fetchKept_tickStart s) (stageRule_faultedEnd.opcodeStage hs)
    · exact absurd hf hne
    · exact ⟨k.regs, k.segs, k.mem, k.cr0, k.tables, k.status.trans hrun, f,
        congrArg (· ++ [f]) k.faults⟩

end Sys2Proof.Machine
end

section
/-! What no rule reads (R30, R44): a relation of two states that agree in everything the rules read, and
that every write keeps, is kept by every tick. It is proved once and used for the observation lists and
for the segment limits. -/

namespace Sys2Proof.Machine

/-- `R` relates states that agree in whatever a rule reads, and the same write on both keeps it. -/
structure Simulation (R : State → State → Prop) : Prop where
  regs : ∀ {s t}, R s t → t.regs = s.regs
  ip : ∀ {s t}, R s t → t.ip = s.ip
  flags : ∀ {s t}, R s t → t.flags = s.flags
  cr0 : ∀ {s t}, R s t → t.cr0 = s.cr0
  ctx : ∀ {s t}, R s t → t.ctx = s.ctx
  deferredIe : ∀ {s t}, R s t → t.deferredIe = s.deferredIe
  tables : ∀ {s t}, R s t → t.tables = s.tables
  status : ∀ {s t}, R s t → t.status = s.status
  device : ∀ {s t}, R s t → t.device = s.device
  lenCounts : ∀ {s t}, R s t → t.lenCounts = s.lenCounts
  selector : ∀ {s t}, R s t → ∀ g, (t.seg g).selector = (s.seg g).selector
  base : ∀ {s t}, R s t → ∀ g, (t.seg g).base = (s.seg g).base
  access : ∀ {s t}, R s t → ∀ g, (t.seg g).access = (s.seg g).access
  setIp : ∀ {s t}, R s t → ∀ v, R (s.setIp v) (t.setIp v)
  setSizes : ∀ {s t}, R s t → ∀ op addr, R (s.setSizes op addr) (t.setSizes op addr)
  setCtx : ∀ {s t}, R s t → ∀ c, R (s.setCtx c) (t.setCtx c)
  setDeferredIe : ∀ {s t}, R s t → ∀ b, R (s.setDeferredIe b) (t.setDeferredIe b)
  setStatus : ∀ {s t}, R s t → ∀ st, R (s.setStatus st) (t.setStatus st)
  setDevice : ∀ {s t}, R s t → ∀ d, R (s.setDevice d) (t.setDevice d)
  emit : ∀ {s t}, R s t → ∀ e, R (s.emit e) (t.emit e)
  recordFault : ∀ {s t}, R s t → ∀ f, R (s.recordFault f) (t.recordFault f)
  logBus : ∀ {s t}, R s t → ∀ c, R (s.logBus c) (t.logBus c)
  setR16 : ∀ {s t}, R s t → ∀ r v, R (s.setR16 r v) (t.setR16 r v)
  writeFlags : ∀ {s t}, R s t → ∀ v, R (s.writeFlags v) (t.writeFlags v)
  loadSeg : ∀ {s t}, R s t → ∀ g sel,
    R (s.setSeg g (loadedSeg g sel (s.seg g))) (t.setSeg g (loadedSeg g sel (t.seg g)))

/-- Two flows do the same, in related states. -/
inductive Flow.Related {α : Type} (R : State → State → Prop) : Flow α → Flow α → Prop
  | go (v : α) {s t : State} (h : R s t) : Related R (.go v s) (.go v t)
  | ended {s t : State} (h : R s t) : Related R (.ended s) (.ended t)
  | fault (r : Fault) : Related R (.fault r) (.fault r)

theorem Flow.Related.go_of_eq {α : Type} {R : State → State → Prop} {v w : α} {s t : State} (hv : w = v)
    (h : R s t) : Flow.Related R (.go v s) (.go w t) := by
  subst hv; exact .go w h

theorem Flow.Related.bind {α β : Type} {R : State → State → Prop} {x y : Flow α}
    {f g : α → State → Flow β} (h : Flow.Related R x y)
    (hf : ∀ v s t, R s t → Flow.Related R (f v s) (g v t)) : Flow.Related R (x.bind f) (y.bind g) := by
  cases h with
  | go v h => exact hf v _ _ h
  | ended h => exact .ended h
  | fault r => exact .fault r

/-- Two outcomes are the same, in related states. -/
inductive OutcomeRelated (R : State → State → Prop) :
    Host.Outcome State Fault Refusal → Host.Outcome State Fault Refusal → Prop
  | next {s t : State} (h : R s t) : OutcomeRelated R (.next s) (.next t)
  | fault (r : Fault) : OutcomeRelated R (.fault r) (.fault r)
  | refused (r : Refusal) : OutcomeRelated R (.refused r) (.refused r)

theorem Flow.Related.outcome {α : Type} {R : State → State → Prop} {x y : Flow α}
    (h : Flow.Related R x y) : OutcomeRelated R x.outcome y.outcome := by
  cases h with
  | go v h => exact .next h
  | ended h => exact .next h
  | fault r => exact .fault r

namespace Simulation

variable {R : State → State → Prop} (sim : Simulation R)
include sim

/-! ## Reads -/

theorem r16 {s t : State} (h : R s t) (q : Reg16) : t.r16 q = s.r16 q := State.r16_congr (sim.regs h) q

theorem r8 {s t : State} (h : R s t) (q : Reg8) : t.r8 q = s.r8 q := State.r8_congr (sim.regs h) q

theorem protectedMode {s t : State} (h : R s t) : t.protectedMode = s.protectedMode :=
  State.protectedMode_congr (sim.cr0 h)

theorem selectOperand {s t : State} (h : R s t) (rm : RM) :
    Machine.selectOperand rm t = Machine.selectOperand rm s :=
  selectOperand_congr (sim.regs h) (by rw [sim.ctx h]) rm

/-! ## Writes -/

theorem setR8 {s t : State} (h : R s t) (r : Reg8) (v : Byte) : R (s.setR8 r v) (t.setR8 r v) := by
  unfold State.setR8
  rw [sim.r16 h]
  split
  · exact sim.setR16 h _ _
  · exact sim.setR16 h _ _

theorem selectRM {s t : State} (h : R s t) (rm : RM) : R (s.selectRM rm) (t.selectRM rm) := by
  simp only [State.selectRM, State.setOperand, sim.selectOperand h, sim.ctx h]
  exact sim.setCtx h _

theorem takeNote {s t : State} (h : R s t) (n : CtxNote) : R (s.takeNote n) (t.takeNote n) := by
  cases n with
  | reg n =>
    simp only [State.takeNote, State.setCtxReg, sim.ctx h]
    exact sim.setCtx h _
  | operand rm => exact sim.selectRM h rm

theorem catchFault {s t : State} (h : R s t) (f : FaultRecord) :
    R (Machine.catchFault f s) (Machine.catchFault f t) := sim.emit (sim.recordFault h f) _

theorem takeStop {s t : State} (h : R s t) (r : StopReason) :
    R (Machine.takeStop r s) (Machine.takeStop r t) := sim.emit (sim.setStatus h _) _

/-! ## Bus and translation -/

theorem busReadByte {s t : State} (h : R s t) (a : Dword) :
    (Machine.busReadByte a t).1 = (Machine.busReadByte a s).1 ∧
      R (Machine.busReadByte a s).2 (Machine.busReadByte a t).2 := by
  simp only [Machine.busReadByte, sim.device h]
  exact ⟨trivial, sim.logBus (sim.setDevice h _) _⟩

theorem busReadWord {s t : State} (h : R s t) (a : Dword) :
    (Machine.busReadWord a t).1 = (Machine.busReadWord a s).1 ∧
      R (Machine.busReadWord a s).2 (Machine.busReadWord a t).2 := by
  simp only [Machine.busReadWord, sim.device h]
  exact ⟨trivial, sim.logBus (sim.setDevice h _) _⟩

theorem busWriteByte {s t : State} (h : R s t) (a : Dword) (v : Byte) :
    R (Machine.busWriteByte a v s) (Machine.busWriteByte a v t) := by
  simp only [Machine.busWriteByte, sim.device h]
  exact sim.logBus (sim.setDevice h _) _

theorem busWriteWord {s t : State} (h : R s t) (a : Dword) (v : Word) :
    R (Machine.busWriteWord a v s) (Machine.busWriteWord a v t) := by
  simp only [Machine.busWriteWord, sim.device h]
  exact sim.logBus (sim.setDevice h _) _

theorem physAddr {s t : State} (h : R s t) (g : Seg) (off : Dword) (w : Width) (k : AccessKind) :
    Flow.Related R (Machine.physAddr g off w k s) (Machine.physAddr g off w k t) := by
  have hp := sim.protectedMode h
  cases hps : s.protectedMode with
  | true =>
    rw [physAddr_protected hps, physAddr_protected (hp.trans hps)]
    exact .ended (sim.takeStop h _)
  | false =>
    rw [physAddr_real hps, physAddr_real (hp.trans hps), sim.base h]
    exact .go _ h

theorem segRead8 {s t : State} (h : R s t) (g : Seg) (off : Dword) :
    Flow.Related R (Machine.segRead8 g off s) (Machine.segRead8 g off t) :=
  (sim.physAddr h _ _ _ _).bind fun a _ _ h =>
    .go_of_eq (sim.busReadByte h a).1 (sim.busReadByte h a).2

theorem segRead16 {s t : State} (h : R s t) (g : Seg) (off : Dword) :
    Flow.Related R (Machine.segRead16 g off s) (Machine.segRead16 g off t) :=
  (sim.physAddr h _ _ _ _).bind fun a _ _ h =>
    .go_of_eq (sim.busReadWord h a).1 (sim.busReadWord h a).2

theorem segWrite8 {s t : State} (h : R s t) (g : Seg) (off : Dword) (v : Byte) :
    Flow.Related R (Machine.segWrite8 g off v s) (Machine.segWrite8 g off v t) :=
  (sim.physAddr h _ _ _ _).bind fun a _ _ h => .go () (sim.busWriteByte h a v)

theorem segWrite16 {s t : State} (h : R s t) (g : Seg) (off : Dword) (v : Word) :
    Flow.Related R (Machine.segWrite16 g off v s) (Machine.segWrite16 g off v t) :=
  (sim.physAddr h _ _ _ _).bind fun a _ _ h => .go () (sim.busWriteWord h a v)

theorem loadSegment {s t : State} (h : R s t) (g : Seg) (sel : Word) :
    Flow.Related R (Machine.loadSegment g sel s) (Machine.loadSegment g sel t) := by
  have hp := sim.protectedMode h
  cases hps : s.protectedMode with
  | true =>
    rw [loadSegment_protected hps, loadSegment_protected (hp.trans hps)]
    exact .ended (sim.takeStop h _)
  | false =>
    rw [loadSegment_real hps, loadSegment_real (hp.trans hps)]
    exact .go () (sim.loadSeg h g sel)

/-! ## Fetches -/

theorem fetchCode8 {s t : State} (h : R s t) :
    Flow.Related R (Machine.fetchCode8 s) (Machine.fetchCode8 t) := by
  simp only [Machine.fetchCode8, sim.ip h]
  exact (sim.physAddr h _ _ _ _).bind fun a s t h =>
    .go_of_eq (sim.busReadByte h a).1 (by rw [sim.ip h]; exact sim.setIp (sim.busReadByte h a).2 _)

theorem fetchCode16 {s t : State} (h : R s t) :
    Flow.Related R (Machine.fetchCode16 s) (Machine.fetchCode16 t) := by
  simp only [Machine.fetchCode16, sim.ip h]
  exact (sim.physAddr h _ _ _ _).bind fun a s t h =>
    .go_of_eq (sim.busReadWord h a).1 (by rw [sim.ip h]; exact sim.setIp (sim.busReadWord h a).2 _)

theorem append {s t : State} (h : R s t) (b : Byte) :
    Flow.Related R (Machine.append b s) (Machine.append b t) := by
  simp only [Machine.append, sim.ctx h]
  split
  · exact .ended (sim.catchFault (sim.setCtx h _) _)
  · exact .go () (sim.setCtx h _)

theorem appendAll : ∀ (bs : List Byte) {s t : State}, R s t →
    Flow.Related R (Machine.appendAll bs s) (Machine.appendAll bs t)
  | [], _, _, h => .go () h
  | b :: bs, _, _, h => (sim.append h b).bind fun _ _ _ h => appendAll bs h

theorem countOperandBytes {s t : State} (h : R s t) (bs : List Byte) :
    Flow.Related R (Machine.countOperandBytes bs s) (Machine.countOperandBytes bs t) := by
  simp only [Machine.countOperandBytes, sim.lenCounts h]
  split
  · exact sim.appendAll bs h
  · exact .go () h

theorem hFetch8 {s t : State} (h : R s t) : Flow.Related R (Machine.hFetch8 s) (Machine.hFetch8 t) :=
  (sim.fetchCode8 h).bind fun _ _ _ h => (sim.countOperandBytes h _).bind fun _ _ _ h => .go _ h

theorem hFetch16 {s t : State} (h : R s t) : Flow.Related R (Machine.hFetch16 s) (Machine.hFetch16 t) :=
  (sim.fetchCode16 h).bind fun _ _ _ h => (sim.countOperandBytes h _).bind fun _ _ _ h => .go _ h

theorem opcodeFetch {s t : State} (h : R s t) :
    Flow.Related R (Machine.opcodeFetch s) (Machine.opcodeFetch t) := by
  simp only [Machine.opcodeFetch, sim.ip h]
  exact (sim.fetchCode8 h).bind fun _ _ _ h => (sim.append h _).bind fun _ _ _ h =>
    .go _ (by rw [sim.selector h]; exact sim.emit h _)

theorem fetchPlan {α : Type} : ∀ (p : Plan α) {s t : State}, R s t →
    Flow.Related R (Machine.fetchPlan p s) (Machine.fetchPlan p t)
  | .done v, _, _, h => .go v h
  | .note n p, _, _, h => fetchPlan p (sim.takeNote h n)
  | .byte next, _, _, h => (sim.hFetch8 h).bind fun v _ _ h => fetchPlan (next v) h
  | .word next, _, _, h => (sim.hFetch16 h).bind fun v _ _ h => fetchPlan (next v) h

/-! ## The r/m accessors -/

theorem readRM8 {s t : State} (h : R s t) : Flow.Related R (Machine.readRM8 s) (Machine.readRM8 t) := by
  simp only [Machine.readRM8, sim.ctx h]
  cases s.ctx.operand with
  | none => exact .fault _
  | reg n => exact .go_of_eq (sim.r8 h _) h
  | mem g ea => exact sim.segRead8 h g _

theorem readRM16 {s t : State} (h : R s t) : Flow.Related R (Machine.readRM16 s) (Machine.readRM16 t) := by
  simp only [Machine.readRM16, sim.ctx h]
  cases s.ctx.operand with
  | none => exact .fault _
  | reg n => exact .go_of_eq (sim.r16 h _) h
  | mem g ea => exact sim.segRead16 h g _

theorem writeRM8 {s t : State} (h : R s t) (v : Byte) :
    Flow.Related R (Machine.writeRM8 v s) (Machine.writeRM8 v t) := by
  simp only [Machine.writeRM8, sim.ctx h]
  cases s.ctx.operand with
  | none => exact .fault _
  | reg n => exact .go () (sim.setR8 h _ v)
  | mem g ea => exact sim.segWrite8 h g _ v

theorem writeRM16 {s t : State} (h : R s t) (v : Word) :
    Flow.Related R (Machine.writeRM16 v s) (Machine.writeRM16 v t) := by
  simp only [Machine.writeRM16, sim.ctx h]
  cases s.ctx.operand with
  | none => exact .fault _
  | reg n => exact .go () (sim.setR16 h _ v)
  | mem g ea => exact sim.segWrite16 h g _ v

/-! ## Instructions -/

theorem setOverride {s t : State} (h : R s t) (g : Seg) :
    R (Machine.setOverride g s) (Machine.setOverride g t) := by
  simp only [Machine.setOverride, sim.ctx h]
  exact sim.setCtx h _

theorem jumpRelative {s t : State} (h : R s t) (d : Word) : R (s.jumpRelative d) (t.jumpRelative d) := by
  simp only [State.jumpRelative, sim.ip h]
  exact sim.setIp h _

theorem stopSelected {s t : State} (h : R s t) (rm : RM) (r : StopReason) :
    OutcomeRelated R (stopUnimplemented (α := Unit) r (s.selectRM rm)).outcome
      (stopUnimplemented (α := Unit) r (t.selectRM rm)).outcome := .next (sim.takeStop (sim.selectRM h rm) r)

theorem exec {s t : State} (h : R s t) (i : Instr) :
    OutcomeRelated R (Machine.exec i s) (Machine.exec i t) := by
  cases i with
  | segEs | segCs | segSs | segDs | segFs | segGs => exact .next (sim.setOverride h _)
  | movRm8R8 rm reg =>
    simp only [Machine.exec, execMovRm8R8, sim.r8 h]
    exact (sim.writeRM8 (sim.selectRM h rm) _).outcome
  | movRm16R16 rm reg =>
    simp only [Machine.exec, execMovRm16R16, sim.r16 h]
    exact (sim.writeRM16 (sim.selectRM h rm) _).outcome
  | movR8Rm8 reg rm =>
    exact ((sim.readRM8 (sim.selectRM h rm)).bind fun v _ _ h => .go () (sim.setR8 h reg v)).outcome
  | movR16Rm16 reg rm =>
    exact ((sim.readRM16 (sim.selectRM h rm)).bind fun v _ _ h => .go () (sim.setR16 h reg v)).outcome
  | movRm16Sreg rm sreg =>
    simp only [Machine.exec, execMovRm16Sreg]
    cases Seg.ofField sreg with
    | none => exact sim.stopSelected h rm _
    | some g =>
      simp only [sim.selector h]
      exact (sim.writeRM16 (sim.selectRM h rm) _).outcome
  | movSregRm16 sreg rm =>
    simp only [Machine.exec, execMovSregRm16]
    cases loadableSeg sreg with
    | none => exact sim.stopSelected h rm _
    | some g =>
      exact ((sim.readRM16 (sim.selectRM h rm)).bind fun v _ _ h => sim.loadSegment h g v).outcome
  | movR8Imm8 reg imm => exact .next (sim.setR8 h reg imm)
  | movR16Imm16 reg imm => exact .next (sim.setR16 h reg imm)
  | movRm8Imm8 rm src =>
    cases src with
    | value v => exact (sim.writeRM8 (sim.selectRM h rm) v).outcome
    | noMeaning reg => exact sim.stopSelected h rm _
  | movRm16Imm16 rm src =>
    cases src with
    | value v => exact (sim.writeRM16 (sim.selectRM h rm) v).outcome
    | noMeaning reg => exact sim.stopSelected h rm _
  | jmpRel16 rel => exact .next (sim.jumpRelative h rel)
  | jmpRel8 rel => exact .next (sim.jumpRelative h _)
  | jmpPtr16 off sel =>
    exact ((sim.loadSegment h .cs sel).bind fun _ _ _ h => .go () (sim.setIp h _)).outcome
  | sti => exact .next (sim.setDeferredIe h true)
  | escape b => exact .next (sim.catchFault h _)
  | unhandled b =>
    simp only [Machine.exec, execUnhandled, sim.selector h, sim.ip h]
    exact .next (sim.emit h _)

/-! ## The tick -/

theorem opcodeStage : ∀ (fuel : Nat) (sec : Bool) {s t : State}, R s t →
    OutcomeRelated R (Machine.opcodeStage fuel sec s) (Machine.opcodeStage fuel sec t)
  | 0, _, _, _, _ => .fault _
  | fuel + 1, sec, s, t, h => by
    have hf := sim.opcodeFetch h
    generalize hx : Machine.opcodeFetch s = x at hf
    generalize hy : Machine.opcodeFetch t = y at hf
    cases hf with
    | ended huv => rw [opcodeStage_ended hx, opcodeStage_ended hy]; exact .next huv
    | fault r => simp only [Machine.opcodeStage, hx, hy]; exact .fault r
    | @go b u v huv =>
      have ht := congrArg (Tables.entry · sec b) (sim.tables huv)
      cases he : u.tables.entry sec b with
      | unhandled =>
        rw [opcodeStage_unhandled hx he, opcodeStage_unhandled hy (ht.trans he)]
        exact sim.exec huv _
      | notRouted =>
        rw [opcodeStage_notRouted hx he, opcodeStage_notRouted hy (ht.trans he)]
        exact sim.exec huv _
      | escapeRouter =>
        rw [opcodeStage_router hx he, opcodeStage_router hy (ht.trans he)]
        exact opcodeStage fuel true huv
      | handler hd =>
        have hp := sim.fetchPlan (operandPlan hd b) huv
        generalize hpx : Machine.fetchPlan (operandPlan hd b) u = x at hp
        generalize hpy : Machine.fetchPlan (operandPlan hd b) v = y at hp
        cases hp with
        | ended huv =>
          rw [opcodeStage_fetch_ended hx he hpx, opcodeStage_fetch_ended hy (ht.trans he) hpy]
          exact .next huv
        | fault r => simp only [Machine.opcodeStage, hx, hy, he, ht.trans he, hpx, hpy]; exact .fault r
        | @go i u v huv =>
          rw [opcodeStage_handler hx he hpx, opcodeStage_handler hy (ht.trans he) hpy]
          have hi := sim.exec huv i
          generalize Machine.exec i u = x at hi
          generalize Machine.exec i v = y at hi
          cases hi with
          | next huv =>
            simp only
            split
            · exact opcodeStage fuel false huv
            · exact .next huv
          | fault r => exact .fault r
          | refused r => exact .refused r

theorem tickStart {s t : State} (h : R s t) : R (Machine.tickStart s) (Machine.tickStart t) := by
  have hc : R (resetContext (s.setSizes .bits16 .bits16)) (resetContext (t.setSizes .bits16 .bits16)) :=
    sim.setCtx (sim.setSizes h _ _) _
  simp only [Machine.tickStart, applyDeferredIe, sim.deferredIe hc]
  split
  · simp only [State.setInterruptEnable, State.readFlags, sim.flags hc]
    exact sim.setDeferredIe (sim.writeFlags hc _) _
  · exact hc

/-- A tick keeps every such relation. -/
theorem step {s t : State} (h : R s t) : OutcomeRelated R (Machine.step s) (Machine.step t) := by
  cases hst : s.status with
  | stopped r =>
    rw [step_stopped hst, step_stopped ((sim.status h).trans hst)]
    exact .fault _
  | running =>
    have hrun : t.isRunning := (sim.status h).trans hst
    cases hd : (s.seg .cs).access.d with
    | true =>
      rw [step_size32 hst hd, step_size32 hrun (by rw [sim.access h, hd])]
      exact .next (sim.takeStop h _)
    | false =>
      rw [step_16 hst hd, step_16 hrun (by rw [sim.access h, hd])]
      exact sim.opcodeStage _ _ (sim.tickStart h)

end Simulation

/-! ## The observation lists (D16, D27) -/

/-- Two states that differ at most in their observation lists. -/
def SameButObs (s t : State) : Prop := t.eraseObs = s.eraseObs

/-- What an erased state shows of a state. -/
theorem SameButObs.field {α : Type} {s t : State} (h : SameButObs s t) (f : State → α)
    (hf : ∀ s : State, f s.eraseObs = f s) : f t = f s := by
  rw [← hf t, ← hf s, h]

/-- An update that does not read the lists keeps them out of account. -/
theorem SameButObs.update {s t : State} (h : SameButObs s t) (f : State → State)
    (hf : ∀ s : State, (f s).eraseObs = (f s.eraseObs).eraseObs) : SameButObs (f s) (f t) := by
  unfold SameButObs at *
  rw [hf t, hf s, h]

theorem simulation_sameButObs : Simulation SameButObs where
  regs h := h.field _ fun _ => rfl
  ip h := h.field _ fun _ => rfl
  flags h := h.field _ fun _ => rfl
  cr0 h := h.field _ fun _ => rfl
  ctx h := h.field _ fun _ => rfl
  deferredIe h := h.field _ fun _ => rfl
  tables h := h.field _ fun _ => rfl
  status h := h.field _ fun _ => rfl
  device h := h.field _ fun _ => rfl
  lenCounts h := h.field _ fun _ => rfl
  selector h g := h.field (fun s => (s.seg g).selector) fun _ => rfl
  base h g := h.field (fun s => (s.seg g).base) fun _ => rfl
  access h g := h.field (fun s => (s.seg g).access) fun _ => rfl
  setIp h v := h.update (·.setIp v) fun _ => rfl
  setSizes h op addr := h.update (·.setSizes op addr) fun _ => rfl
  setCtx h c := h.update (·.setCtx c) fun _ => rfl
  setDeferredIe h b := h.update (·.setDeferredIe b) fun _ => rfl
  setStatus h st := h.update (·.setStatus st) fun _ => rfl
  setDevice h d := h.update (·.setDevice d) fun _ => rfl
  emit h e := h.update (·.emit e) fun _ => rfl
  recordFault h f := h.update (·.recordFault f) fun _ => rfl
  logBus h c := h.update (·.logBus c) fun _ => rfl
  setR16 h r v := h.update (·.setR16 r v) fun _ => rfl
  writeFlags h v := h.update (·.writeFlags v) fun _ => rfl
  loadSeg h g sel := h.update (fun s => s.setSeg g (loadedSeg g sel (s.seg g))) fun _ => rfl

/-- Outcomes that differ at most in the lists are equal once these are emptied. -/
theorem mapNext_eraseObs {o p : Host.Outcome State Fault Refusal} (h : OutcomeRelated SameButObs o p) :
    mapNext State.eraseObs p = mapNext State.eraseObs o := by
  cases h with
  | next h => exact congrArg Host.Outcome.next h
  | fault r => rfl
  | refused r => rfl

/-- Settles O59: a state and the one with its lists emptied are related by a simulation. -/
theorem observationsAreNeverRead : Obligations.ObservationsAreNeverRead := by
  unfold Obligations.ObservationsAreNeverRead
  intro s
  have erased : SameButObs s s.eraseObs := rfl
  exact mapNext_eraseObs (simulation_sameButObs.step erased)

/-! ## The segment limits (D26) -/

theorem seg_withLimits (s : State) (l : Word) (g : Seg) :
    (s.withLimits l).seg g = (s.seg g).withLimit l := by
  cases g <;> rfl

/-- The second state is the first with all limits replaced. -/
def LimitsReplaced (l : Word) (s t : State) : Prop := t = s.withLimits l

theorem limitsReplaced_load (l : Word) (s : State) (g : Seg) (sel : Word) :
    (s.withLimits l).setSeg g (loadedSeg g sel ((s.withLimits l).seg g)) =
      (s.setSeg g (loadedSeg g sel (s.seg g))).withLimits l := by
  cases g <;> rfl

theorem simulation_limitsReplaced (l : Word) : Simulation (LimitsReplaced l) where
  regs h := by subst h; rfl
  ip h := by subst h; rfl
  flags h := by subst h; rfl
  cr0 h := by subst h; rfl
  ctx h := by subst h; rfl
  deferredIe h := by subst h; rfl
  tables h := by subst h; rfl
  status h := by subst h; rfl
  device h := by subst h; rfl
  lenCounts h := by subst h; rfl
  selector h g := by subst h; rw [seg_withLimits]; rfl
  base h g := by subst h; rw [seg_withLimits]; rfl
  access h g := by subst h; rw [seg_withLimits]; rfl
  setIp h v := by subst h; rfl
  setSizes h op addr := by subst h; rfl
  setCtx h c := by subst h; rfl
  setDeferredIe h b := by subst h; rfl
  setStatus h st := by subst h; rfl
  setDevice h d := by subst h; rfl
  emit h e := by subst h; rfl
  recordFault h f := by subst h; rfl
  logBus h c := by subst h; rfl
  setR16 h r v := by subst h; rfl
  writeFlags h v := by subst h; rfl
  loadSeg h g sel := by subst h; exact limitsReplaced_load l _ g sel

theorem eq_mapNext_withLimits {l : Word} {o p : Host.Outcome State Fault Refusal}
    (h : OutcomeRelated (LimitsReplaced l) o p) : p = mapNext (fun t => t.withLimits l) o := by
  cases h with
  | next h => exact congrArg Host.Outcome.next h
  | fault r => rfl
  | refused r => rfl

/-- Settles O60: a state and the one with its limits replaced are related by a simulation. -/
theorem limitsAreNeverRead : Obligations.LimitsAreNeverRead := by
  unfold Obligations.LimitsAreNeverRead
  intro s l
  have replaced : LimitsReplaced l s (s.withLimits l) := rfl
  exact eq_mapNext_withLimits ((simulation_limitsReplaced l).step replaced)

end Sys2Proof.Machine
end

section
/-! The reference RAM, the bus and the ports of 20_memory: little-endian doublewords, the canonical form,
one call per port operation, and the byte that a fetch reads. -/

namespace Sys2Proof.Machine

/-! ## Bytes of a doubleword (R72, R73) -/

/-- The bytes of four joined bytes, and the join of a doubleword's four bytes. -/
theorem extractLsb'_append4 (b3 b2 b1 b0 : Byte) :
    (b3 ++ b2 ++ b1 ++ b0 : Dword).extractLsb' 0 8 = b0 ∧
    (b3 ++ b2 ++ b1 ++ b0 : Dword).extractLsb' 8 8 = b1 ∧
    (b3 ++ b2 ++ b1 ++ b0 : Dword).extractLsb' 16 8 = b2 ∧
    (b3 ++ b2 ++ b1 ++ b0 : Dword).extractLsb' 24 8 = b3 := by
  refine ⟨?_, ?_, ?_, ?_⟩ <;>
    (ext i hi; simp only [BitVec.getElem_extractLsb', BitVec.getLsbD_append]; grind)

theorem append_extractLsb'4 (v : Dword) :
    (v.extractLsb' 24 8 ++ v.extractLsb' 16 8 ++ v.extractLsb' 8 8 ++ v.extractLsb' 0 8 : Dword) = v := by
  ext i hi
  simp only [BitVec.getElem_append, BitVec.getElem_extractLsb']
  grind

/-- Four successive addresses are four, whatever the wrap-around. -/
theorem Dword.add_ne_add {i j : Dword} (h : i ≠ j) (a : Dword) : a + i ≠ a + j :=
  fun e => h (add_left_cancel e)

theorem Dword.add_ne {i : Dword} (h : i ≠ 0) (a : Dword) : a + i ≠ a :=
  fun e => h (add_eq_left.mp e)

theorem Memory.read8_write32_ne (m : Memory) {a b : Dword} (v : Dword)
    (h : b ∉ [a, a + 1, a + 2, a + 3]) : (m.write32 a v).read8 b = m.read8 b := by
  simp only [List.mem_cons, List.not_mem_nil, or_false, not_or] at h
  obtain ⟨h0, h1, h2, h3⟩ := h
  unfold Memory.write32
  rw [Memory.read8_write8_ne _ _ h3, Memory.read8_write8_ne _ _ h2, Memory.read8_write8_ne _ _ h1,
    Memory.read8_write8_ne _ _ h0]

/-- A doubleword write puts its four bytes at four successive addresses. -/
theorem Memory.read8_write32 {m : Memory} (h : m.wf = true) (a v : Dword) :
    (m.write32 a v).read8 a = v.extractLsb' 0 8 ∧ (m.write32 a v).read8 (a + 1) = v.extractLsb' 8 8 ∧
    (m.write32 a v).read8 (a + 2) = v.extractLsb' 16 8 ∧
    (m.write32 a v).read8 (a + 3) = v.extractLsb' 24 8 := by
  have ne : ∀ {i j : Dword}, i ≠ j → a + i ≠ a + j := fun h => Dword.add_ne_add h a
  have ne0 : ∀ {i : Dword}, i ≠ 0 → a ≠ a + i := fun h => (Dword.add_ne h a).symm
  have h0 := Memory.wf_write8 h a (v.extractLsb' 0 8)
  have h1 := Memory.wf_write8 h0 (a + 1) (v.extractLsb' 8 8)
  have h2 := Memory.wf_write8 h1 (a + 2) (v.extractLsb' 16 8)
  unfold Memory.write32
  refine ⟨?_, ?_, ?_, Memory.read8_write8_self h2 _ _⟩
  · rw [Memory.read8_write8_ne _ _ (ne0 (by decide)), Memory.read8_write8_ne _ _ (ne0 (by decide)),
      Memory.read8_write8_ne _ _ (ne0 (by decide)), Memory.read8_write8_self h]
  · rw [Memory.read8_write8_ne _ _ (ne (by decide)), Memory.read8_write8_ne _ _ (ne (by decide)),
      Memory.read8_write8_self h0]
  · rw [Memory.read8_write8_ne _ _ (ne (by decide)), Memory.read8_write8_self h1]

/-- A doubleword read after the doubleword's write gives the doubleword. -/
theorem Memory.read32_write32 {m : Memory} (h : m.wf = true) (a v : Dword) :
    (m.write32 a v).read32 a = v := by
  obtain ⟨h0, h1, h2, h3⟩ := Memory.read8_write32 h a v
  rw [Memory.read32, h0, h1, h2, h3, append_extractLsb'4]

/-- Settles O9: both widths are byte accesses at successive addresses, and these are distinct. -/
theorem dwordWriteIsLittleEndian : Obligations.DwordWriteIsLittleEndian := by
  unfold Obligations.DwordWriteIsLittleEndian
  refine ⟨fun m a => ⟨lowByte_wordOfBytes _ _, highByte_wordOfBytes _ _, extractLsb'_append4 _ _ _ _⟩,
    fun m a v h => ⟨Memory.read8_write16_low h a v, Memory.read8_write16_high h a v,
      Memory.read16_write16 h a v, fun b hb => ?_⟩, fun m a v h => ?_⟩
  · simp only [List.mem_cons, List.not_mem_nil, or_false, not_or] at hb
    exact Memory.read8_write16_ne m v hb.1 hb.2
  · obtain ⟨h0, h1, h2, h3⟩ := Memory.read8_write32 h a v
    exact ⟨h0, h1, h2, h3, Memory.read32_write32 h a v, fun b => Memory.read8_write32_ne m v⟩

/-! ## The canonical form (log 3) -/

theorem Memory.readAt_head (k : Nat) (v : Byte) (m : Memory) : Memory.readAt ((k, v) :: m) k = v := if_pos rfl

/-- The first cell of a canonical list differs from what a list of higher addresses reads there. -/
theorem Memory.head_ne_readAt {lo k : Nat} {v : Byte} {m m' : Memory}
    (h : Memory.wfFrom lo ((k, v) :: m) = true) (h' : Memory.wfFrom (k + 1) m' = true) :
    Memory.readAt ((k, v) :: m) k ≠ m'.readAt k := by
  obtain ⟨-, -, hv, -⟩ := (Memory.wfFrom_cons_iff ..).mp h
  rw [Memory.readAt_head, Memory.readAt_below h' (Nat.lt_succ_self k)]
  exact hv

theorem Memory.eq_of_readAt_eq : ∀ {m m' : Memory} {lo lo' : Nat}, Memory.wfFrom lo m = true →
    Memory.wfFrom lo' m' = true → (∀ n, n < 2 ^ 32 → m.readAt n = m'.readAt n) → m = m'
  | [], [], _, _, _, _, _ => rfl
  | [], (k, v) :: m', _, _, _, h', hr => by
    obtain ⟨-, hk, -, -⟩ := (Memory.wfFrom_cons_iff ..).mp h'
    exact absurd (hr k hk).symm (Memory.head_ne_readAt (m' := []) h' rfl)
  | (k, v) :: m, [], _, _, h, _, hr => by
    obtain ⟨-, hk, -, -⟩ := (Memory.wfFrom_cons_iff ..).mp h
    exact absurd (hr k hk) (Memory.head_ne_readAt (m' := []) h rfl)
  | (k, v) :: m, (k', v') :: m', _, _, h, h', hr => by
    obtain ⟨-, hk, hv, hm⟩ := (Memory.wfFrom_cons_iff ..).mp h
    obtain ⟨-, hk', hv', hm'⟩ := (Memory.wfFrom_cons_iff ..).mp h'
    obtain hlt | rfl | hlt := Nat.lt_trichotomy k k'
    · refine absurd (hr k hk) (Memory.head_ne_readAt h ?_)
      exact (Memory.wfFrom_cons_iff ..).mpr ⟨hlt, hk', hv', hm'⟩
    · have hhead : v = v' := by simpa only [Memory.readAt_head] using hr k hk
      have htail : m = m' := Memory.eq_of_readAt_eq hm hm' fun n hn => by
        by_cases hkn : k = n
        · subst hkn
          rw [Memory.readAt_below hm (Nat.lt_succ_self k), Memory.readAt_below hm' (Nat.lt_succ_self k)]
        · simpa only [Memory.readAt, if_neg hkn] using hr n hn
      rw [hhead, htail]
    · refine absurd (hr k' hk').symm (Memory.head_ne_readAt h' ?_)
      exact (Memory.wfFrom_cons_iff ..).mpr ⟨hlt, hk, hv, hm⟩

/-- Settles O10: at the lower of two first addresses only one of the lists has a byte to read, so the first
cells agree, and then the rests. -/
theorem canonicalMemoriesReadingAlikeAreEqual : Obligations.CanonicalMemoriesReadingAlikeAreEqual := by
  unfold Obligations.CanonicalMemoriesReadingAlikeAreEqual
  intro m m' h h' hr
  refine Memory.eq_of_readAt_eq h h' fun n hn => ?_
  have := hr (BitVec.ofNat 32 n)
  rwa [Memory.read8, Memory.read8, BitVec.toNat_ofNat, Nat.mod_eq_of_lt hn] at this

/-! ## Translation and fetches in real mode -/

/-- Settles O6: the last-byte rule takes off again what it adds. -/
theorem realModeAddressIsBasePlusOffset : Obligations.RealModeAddressIsBasePlusOffset := by
  unfold Obligations.RealModeAddressIsBasePlusOffset
  exact fun s g off w k h => ⟨translate_real h g off k, physAddr_real h g off w k⟩

theorem fetchCode32_real {s : State} (h : s.protectedMode = false) : fetchCode32 s =
    .go (busReadDword (codeAddress s) s).1 ((busReadDword (codeAddress s) s).2.setIp (s.ip + 4)) := by
  simp [fetchCode32, physAddr_real h, codeAddress, busReadDword]

/-- Settles O8: in real mode a fetch is the bus call at `codeAddress` and the write of `ip`. -/
theorem codeFetchAdvancesIp : Obligations.CodeFetchAdvancesIp := by
  unfold Obligations.CodeFetchAdvancesIp
  rintro s a h rfl
  exact ⟨fetchCode8_real h, fetchCode16_real h, fetchCode32_real h⟩

/-! ## Ports (D5) -/

/-- Settles O11: a port operation is one call by definition, and on the reference bus the device answers 0
and stays. -/
theorem referencePortsReadZero : Obligations.ReferencePortsReadZero := by
  unfold Obligations.ReferencePortsReadZero
  refine ⟨fun s p hr => ?_, fun s p => ⟨rfl, rfl, rfl, fun _ => rfl, fun _ => rfl, fun _ => rfl⟩⟩
  obtain ⟨m, hm⟩ := State.onReference_iff.mp hr
  have same : ∀ c, (s.setDevice (.reference m)).logBus c = { s with busLog := s.busLog ++ [c] } :=
    fun c => by rw [← hm]; rfl
  simp [portReadByte, portReadWord, portReadDword, portWriteByte, portWriteWord, portWriteDword, hm, same]

/-! ## A stored code byte (R82) -/

theorem codeByte_busWriteByte {s : State} (hr : s.onReference) (hwf : s.mem.wf = true) (v : Byte) :
    codeByte (busWriteByte (codeAddress s) v s) = v := by
  show ((s.device.writeByte (codeAddress s) v).readByte (codeAddress s)).1 = v
  rw [hr]
  exact Memory.read8_write8_self hwf _ v

/-- Settles O12: the write changes the device alone, so the fetch goes to the same address. -/
theorem storedCodeByteIsFetched : Obligations.StoredCodeByteIsFetched := by
  unfold Obligations.StoredCodeByteIsFetched
  intro s v hr hreal hwf hlen
  refine ⟨afterOpcodeByte (busWriteByte (codeAddress s) v s), ?_⟩
  have hfetch := opcodeFetch_ok (s := busWriteByte (codeAddress s) v s) hreal hlen
  rwa [codeByte_busWriteByte hr hwf] at hfetch

end Sys2Proof.Machine
end

section
/-! The engine of 40_engine: a round of the opcode stage from the bytes at `ip`, the ModRM decoder, the
guard at opcode bytes and, where they count, at operand bytes. -/

namespace Sys2Proof.Machine

/-! ## The first fetch in protected mode (R64, R211) -/

/-- Settles O24: the prelude writes none of these, and the opcode fetch stops before its bus call. -/
theorem protectedModeTickStopsAtTheFetch : Obligations.ProtectedModeTickStopsAtTheFetch := by
  unfold Obligations.ProtectedModeTickStopsAtTheFetch
  intro s hrun hd hprot
  have hfetch := opcodeFetch_protected ((tickStart_protectedMode s).trans hprot)
  refine ⟨_, (step_16 hrun hd).trans (opcodeStage_ended hfetch), ?_⟩
  simp [takeStop, Ctx.len, emptyCtx]

/-! ## One round of the stage (R112 to R117) -/

/-- On the reference bus a handler fetches the operand bytes of the instruction that the bytes at `ip`
are, when they fit. -/
theorem fetchPlan_operandPlan {h : Handler} {b : Byte} {s : State} {n : Nat} {i : Instr} {rest : List Byte}
    (hr : s.onReference) (hd : decodeHandler h b (bytesFrom s.mem n (codeAddress s)) = some (i, rest))
    (hc : s.canFetch i.operandBytes) :
    ∃ t, fetchPlan (operandPlan h b) s = .go i t ∧ Fetched (operandFetches i) s t := by
  have hw := planWidths_operandPlan hd
  rw [← totalSize_operandFetches, ← hw] at hc
  obtain ⟨t, e, f⟩ := fetchPlan_fetched hr hd hc
  exact ⟨t, e, hw ▸ f⟩

/-- After a handler's fetches the stage runs its instruction, and goes on after a segment override. -/
theorem opcodeStage_runs {fuel : Nat} {sec : Bool} {s t u : State} {b : Byte} {h : Handler} {i : Instr}
    (hf : opcodeFetch s = .go b t) (he : t.tables.entry sec b = .handler h)
    (hp : fetchPlan (operandPlan h b) t = .go i u) :
    (i.isPrefix = false → opcodeStage (fuel + 1) sec s = exec i u) ∧
    (i.isPrefix = true → ∃ v, exec i u = .next v ∧
      opcodeStage (fuel + 1) sec s = opcodeStage fuel false v) := by
  rw [opcodeStage_handler hf he hp]
  constructor
  · intro hi
    obtain ⟨v, hx⟩ := exec_answers i u
    simp only [hx, hi]
    rfl
  · intro hi
    obtain ⟨g, hx⟩ := exec_of_isPrefix hi u
    exact ⟨_, hx, by simp only [hx, hi, if_true]⟩

theorem bytesFrom_succ (m : Memory) (n : Nat) (a : Dword) :
    bytesFrom m (n + 1) a = m.read8 a :: bytesFrom m n (a + 1) := rfl

/-- Settles O25: each clause is one unfolding of the stage on the opcode fetch that succeeds or meets the
guard; what is decoded from the bytes at `ip` is what the handler's plan fetches. -/
theorem stepRunsTheDecodedInstruction : Obligations.StepRunsTheDecodedInstruction := by
  unfold Obligations.StepRunsTheDecodedInstruction
  refine ⟨fun s => step_eq_opcodeStage, ?_, ?_,
    fun k sec s hreal hlen => opcodeStage_tenth hreal hlen k sec, ?_⟩
  · intro k sec s i rest hr hreal hlen hne hdec hfit
    have hf := opcodeFetch_ok hreal hlen
    rw [bytesFrom_succ, ← codeByte_reference hr] at hdec
    obtain ⟨he, rfl, -⟩ | ⟨he, rfl, -⟩ | ⟨he, -⟩ | ⟨h, he, hd⟩ := decodeFrom_cases hdec
    · exact ⟨_, .refl _, fun _ => opcodeStage_unhandled hf he, fun hi => by cases hi⟩
    · exact ⟨_, .refl _, fun _ => opcodeStage_notRouted hf he, fun hi => by cases hi⟩
    · exact absurd he hne
    · rw [← afterOpcodeByte_mem s, ← codeAddress_afterOpcodeByte] at hd
      obtain ⟨t, hp, f⟩ := fetchPlan_operandPlan (afterOpcodeByte_onReference hr) hd hfit
      exact ⟨t, f, opcodeStage_runs hf he hp⟩
  · exact fun k sec s hreal hlen he => opcodeStage_router (opcodeFetch_ok hreal hlen) he
  · exact fun k sec s t h i hreal hlen he hp => opcodeStage_runs (opcodeFetch_ok hreal hlen) he hp

/-! ## The bus calls of a handler and its instruction (D24, D39) -/

/-- Settles O43: the fetches are the plan's; then each MOV makes the calls of its r/m accessor. -/
theorem movBusCallsInOrder : Obligations.MovBusCallsInOrder := by
  unfold Obligations.MovBusCallsInOrder
  constructor
  · intro h b s i rest hr hd hc
    obtain ⟨t, e, f⟩ := fetchPlan_operandPlan hr hd hc
    exact ⟨t, e, f, f.busLog⟩
  · intro rm s t hacc
    have store8 : ∀ v, (writeRM8 v (s.selectRM rm)).outcome = .next t →
        t.busLog = s.busLog ++ storeCalls8 (selectOperand rm s) v s := by
      intro v hx
      obtain ⟨u, hgo, a, -⟩ := writeRM8_accessible hacc v
      rw [hgo] at hx; cases hx
      exact a.busLog
    have store16 : ∀ v, (writeRM16 v (s.selectRM rm)).outcome = .next t →
        t.busLog = s.busLog ++ storeCalls16 (selectOperand rm s) v s := by
      intro v hx
      obtain ⟨u, hgo, a, -⟩ := writeRM16_accessible hacc v
      rw [hgo] at hx; cases hx
      exact a.busLog
    refine ⟨fun reg => store8 _, fun reg => store16 _, fun reg hx => ?_, fun reg hx => ?_,
      fun n g hn hx => store16 _ ((exec_movRm16Sreg hn rm s).symm.trans hx), fun n g hn hg hx => ?_,
      store8, store16⟩
    · obtain ⟨v, d, -, -, e⟩ := exec_movR8Rm8 hacc reg
      cases hx.symm.trans e
      exact State.setR8_busLog ..
    · obtain ⟨v, d, -, -, e⟩ := exec_movR16Rm16 hacc reg
      cases hx.symm.trans e
      rfl
    · obtain ⟨v, d, -, -, hgo⟩ := readRM16_accessible hacc
      simp only [exec, execMovSregRm16, loadableSeg_of_ne_cs hn hg, hgo, Flow.bind_go] at hx
      cases hp : s.protectedMode with
      | true =>
        rw [loadSegment_protected (s := afterRead s rm d _) hp] at hx
        cases hx; rfl
      | false =>
        rw [loadSegment_real (s := afterRead s rm d _) hp] at hx
        cases hx; rfl

/-! ## The ModRM decoder (D31) -/

/-- The decoder's last write: the operand that the form selects in the state before the fetches. -/
theorem takeNote_operand_fetched {ws : List Width} {s t : State} (f : Fetched ws s t) (rm : RM) :
    Fetched ws s (t.takeNote (.operand rm)) ∧ (t.takeNote (.operand rm)).ctx.reg = t.ctx.reg ∧
      (t.takeNote (.operand rm)).ctx.operand = selectOperand rm s :=
  ⟨f.takeNote _, rfl, selectOperand_congr f.regs f.override rm⟩

/-- Settles O31: by the shape of the ModRM byte, its fetch is followed by none, by one byte or by a word
of displacement, and the two notes are the only other writes. -/
theorem modRMDecoderOnlyFetches : Obligations.ModRMDecoderOnlyFetches := by
  unfold Obligations.ModRMDecoderOnlyFetches
  intro rm reg s rest hr hc hdec
  obtain ⟨t, hm, f, -, -⟩ := hFetch8_fetched hr (hc.mono (by cases rm <;> simp [RM.size]))
  have g : Fetched [.byte] s (t.takeNote (.reg (regField (s.mem.read8 (codeAddress s))))) := f.takeNote _
  have haddr := g.codeAddress_eq
  rw [decodeModRM, bytesFrom_succ] at hdec
  rw [← totalSize_rmFetches] at hc
  cases modRMShape (s.mem.read8 (codeAddress s)) with
  | none rm' _ _ fetches plan =>
    obtain ⟨next, e, hnext⟩ := plan fun rm reg => .done (rm, reg)
    rw [e, Plan.onBytes, hnext] at hdec
    cases hdec
    obtain ⟨a, ha, ho⟩ := takeNote_operand_fetched g rm
    refine ⟨_, fetches ▸ a, ha, ho, fun k => ?_⟩
    obtain ⟨next, e, hnext⟩ := plan k
    rw [e, fetchPlan, hm, Flow.bind_go, hnext]
    rfl
  | byte rm' _ _ fetches plan =>
    obtain ⟨next, e, hnext⟩ := plan fun rm reg => .done (rm, reg)
    rw [e, Plan.onBytes, hnext] at hdec
    cases hdec
    rw [fetches] at hc
    obtain ⟨u, hd, f', hreg, -⟩ :=
      hFetch8_fetched (g.onReference hr) (g.canFetch (ws := [.byte]) (n := 1) hc)
    rw [g.mem, haddr] at hd
    obtain ⟨a, ha, ho⟩ := takeNote_operand_fetched (g.trans f') (rm' (s.mem.read8 (codeAddress s + 1)))
    refine ⟨_, fetches _ ▸ a, ha.trans hreg, ho, fun k => ?_⟩
    obtain ⟨next, e, hnext⟩ := plan k
    rw [e, fetchPlan, hm, Flow.bind_go, hnext, fetchPlan, fetchPlan, hd]
    rfl
  | word rm' _ _ fetches plan =>
    obtain ⟨next, e, hnext⟩ := plan fun rm reg => .done (rm, reg)
    rw [e, Plan.onBytes, hnext] at hdec
    cases hdec
    rw [fetches] at hc
    obtain ⟨u, hd, f', hreg, -⟩ :=
      hFetch16_fetched (g.onReference hr) (g.canFetch (ws := [.byte]) (n := 2) hc)
    rw [g.mem, haddr] at hd
    obtain ⟨a, ha, ho⟩ := takeNote_operand_fetched (g.trans f') (rm' (s.mem.read16 (codeAddress s + 1)))
    refine ⟨_, fetches _ ▸ a, ha.trans hreg, ho, fun k => ?_⟩
    obtain ⟨next, e, hnext⟩ := plan k
    rw [e, fetchPlan, hm, Flow.bind_go, hnext, fetchPlan, fetchPlan, hd]
    rfl

end Sys2Proof.Machine
end

section
/-! The length guard (R115, R116) and the two-byte escape (R121, R122) in a tick on the reference bus. -/

namespace Sys2Proof.Machine

/-! ## Nine overrides and the tenth byte -/

/-- A state inside a tick that, besides what `OpcodeBytesIn` says, has accumulated the `n` bytes from
`ip` on and has no deferred enable pending. -/
structure OpcodeBytesRead (s : State) (n : Nat) (t : State) : Prop extends OpcodeBytesIn s n t where
  bytes : t.ctx.bytes = bytesFrom s.mem n (codeAddress s)
  deferredIe : t.deferredIe = false

theorem opcodeBytesRead_tickStart (s : State) : OpcodeBytesRead s 0 (tickStart s) where
  toOpcodeBytesIn := opcodeBytesIn_tickStart s
  bytes := congrArg Ctx.bytes (tickStart_ctx s)
  deferredIe := tickStart_deferredIe s

theorem bytesFrom_succ_last (m : Memory) (n : Nat) (a : Dword) :
    bytesFrom m (n + 1) a = bytesFrom m n a ++ [m.read8 (a + BitVec.ofNat 32 n)] := bytesFrom_add m n 1 a

theorem OpcodeBytesRead.opcodeByte {s t : State} {n : Nat} (a : OpcodeBytesRead s n t)
    (hr : s.onReference) : OpcodeBytesRead s (n + 1) (afterOpcodeByte t) where
  toOpcodeBytesIn := a.toOpcodeBytesIn.opcodeByte hr
  bytes := by
    show t.ctx.bytes ++ [codeByte t] = _
    rw [a.bytes, a.codeByte_eq hr, bytesFrom_succ_last]
  deferredIe := a.deferredIe

theorem OpcodeBytesRead.override {s t : State} {n : Nat} (a : OpcodeBytesRead s n t) (g : Seg) :
    OpcodeBytesRead s n (setOverride g t) where
  __ := a

/-- `step_after_overrides`, with the bytes accumulated on the way. -/
theorem step_after_overrides_read {s : State} (hr : s.onReference) (ht : s.canTick) : ∀ {n fuel : Nat},
    fuel + 1 + n = lengthLimit →
    (∀ k, k < n → ∃ g, s.tables.entry false (s.mem.read8 (codeAddress s + BitVec.ofNat 32 k)) =
      .handler (.override g)) →
    ∃ t, OpcodeBytesRead s n t ∧ step s = opcodeStage (fuel + 1) false t
  | 0, _, hn, _ => ⟨tickStart s, opcodeBytesRead_tickStart s, hn ▸ step_eq_opcodeStage ht⟩
  | n + 1, fuel, hn, hov => by
    obtain ⟨t, a, hstep⟩ := step_after_overrides_read hr ht (n := n) (fuel := fuel + 1) (by omega)
      fun k hk => hov k (by omega)
    obtain ⟨g, hg⟩ := hov n (by omega)
    have b := a.opcodeByte hr
    refine ⟨setOverride g (afterOpcodeByte t), b.override g, ?_⟩
    rw [hstep, opcodeStage_override (a.opcodeFetch_eq hr ht (by omega)) (by rw [b.tables, hg])]

theorem afterTenthByte_device {s : State} (h : s.onReference) : (afterTenthByte s).device = s.device :=
  afterOpcodeByte_device h

/-- Settles O26: after nine overrides the next byte is the tenth, which ends the stage in
`afterTenthByte`. -/
theorem tenthOpcodeByteRaisesGP : Obligations.TenthOpcodeByteRaisesGP := by
  unfold Obligations.TenthOpcodeByteRaisesGP
  intro s hr ht hov
  obtain ⟨t, a, hstep⟩ := step_after_overrides_read hr ht (n := 9) (fuel := 0) rfl hov
  obtain ⟨hrun, -, hreal⟩ := ht
  have htenth := opcodeStage_tenth ((State.protectedMode_congr a.cr0).trans hreal)
    (by rw [a.len]; rfl) 0 false
  refine ⟨_, hstep.trans htenth, ?_, congrArg (· ++ [gpFault]) a.faults, ?_,
    (a.opcodeByte hr).bytes, a.regs, a.segs, (afterTenthByte_device (a.onReference hr)).trans a.device,
    a.cr0, a.tables, a.flags, a.deferredIe, a.status.trans hrun⟩
  · show t.ip + 1 = s.ip + 10
    rw [a.ip, BitVec.add_assoc]; rfl
  · show t.trace ++ [.faultReported gpFault] = _
    rw [a.trace]

/-! ## The escape and an unrouted second byte (D14) -/

/-- Settles O28: the router's byte and the second one are two opcode bytes of the tick; the second finds
NOT_ROUTED, whose instruction catches one fault. -/
theorem unroutedTwoByteOpcodeFaults : Obligations.UnroutedTwoByteOpcodeFaults := by
  unfold Obligations.UnroutedTwoByteOpcodeFaults
  refine ⟨exec_escape, fun s hr ht he hsecond => ?_⟩
  have a := opcodeBytesIn_tickStart s
  have b := a.opcodeByte hr
  have c := b.opcodeByte hr
  have hrouter : (afterOpcodeByte (tickStart s)).tables.entry false
      (s.mem.read8 (codeAddress s + BitVec.ofNat 32 0)) = .escapeRouter := by
    rw [b.tables, show codeAddress s + BitVec.ofNat 32 0 = codeAddress s from BitVec.add_zero _,
      ← codeByte_reference hr]
    exact he
  have hstep : step s = opcodeStage (8 + 1 + 1) false (tickStart s) := step_eq_opcodeStage ht
  rw [opcodeStage_router (a.opcodeFetch_eq hr ht (by decide)) hrouter,
    opcodeStage_notRouted (b.opcodeFetch_eq hr ht (by decide)) (by rw [c.tables]; exact hsecond),
    exec_escape] at hstep
  exact ⟨_, hstep, c.ip, c.regs, c.segs, c.device, c.status.trans ht.1,
    congrArg (· ++ [notRoutedFault (s.mem.read8 (codeAddress s + 1))]) c.faults⟩

/-! ## The tenth byte among a handler's (D12) -/

/-- `t` is `s` after fetches of widths `ws` from the reference bus, of which the last reaches the tenth
byte, `n` bytes on: GP is caught, and no more than `n` bytes are accumulated. -/
structure TenthReached (n : Nat) (ws : List Width) (s t : State) : Prop where
  faults : t.faults = s.faults ++ [gpFault]
  trace : t.trace = s.trace ++ [.faultReported gpFault]
  bytes : t.ctx.bytes = s.ctx.bytes ++ bytesFrom s.mem n (codeAddress s)
  ip : t.ip = s.ip + BitVec.ofNat 32 (totalSize ws)
  busLog : t.busLog = s.busLog ++ codeReads s ws s.ip
  regs : t.regs = s.regs
  segs : t.segs = s.segs
  device : t.device = s.device
  deferredIe : t.deferredIe = s.deferredIe
  flags : t.flags = s.flags
  cr0 : t.cr0 = s.cr0
  tables : t.tables = s.tables
  status : t.status = s.status

/-- Fetches that fit, then fetches that reach the tenth byte. -/
theorem TenthReached.after {ws ws' : List Width} {n : Nat} {s t u : State} (f : Fetched ws s t)
    (hl : s.lenCounts = true) (a : TenthReached n ws' t u) :
    TenthReached (totalSize ws + n) (ws ++ ws') s u where
  faults := by rw [a.faults, f.faults]
  trace := by rw [a.trace, f.trace]
  bytes := by
    rw [a.bytes, f.bytes, if_pos hl, f.mem, f.codeAddress_eq, bytesFrom_add, List.append_assoc]
  ip := by rw [a.ip, f.ip, totalSize_append, BitVec.ofNat_add, BitVec.add_assoc]
  busLog := by
    rw [a.busLog, f.busLog, codeReads_append, codeReads_congr f.mem f.segs, f.ip, List.append_assoc]
  regs := a.regs.trans f.regs
  segs := a.segs.trans f.segs
  device := a.device.trans f.device
  deferredIe := a.deferredIe.trans f.deferredIe
  flags := a.flags.trans f.flags
  cr0 := a.cr0.trans f.cr0
  tables := a.tables.trans f.tables
  status := a.status.trans f.status

/-- The fetches up to the one that reaches `n` bytes, when the first does not. -/
theorem fetchesUpTo_cons_of_lt {n : Nat} {w : Width} (h : w.size < n) (ws : List Width) :
    fetchesUpTo n (w :: ws) = w :: fetchesUpTo (n - w.size) ws := if_neg (by omega)

theorem fetchesUpTo_cons_of_le {n : Nat} {w : Width} (h : n ≤ w.size) (ws : List Width) :
    fetchesUpTo n (w :: ws) = [w] := if_pos h

/-- `t` is where fetches of widths `ws` from `s` on reach the tenth byte, and with it the guard. -/
def GuardReached (ws : List Width) (s t : State) : Prop :=
  TenthReached (lengthLimit - s.ctx.len) (fetchesUpTo (lengthLimit - s.ctx.len) ws) s t

/-- One fetch that fits, then fetches that reach the guard. -/
theorem GuardReached.after {w : Width} {ws : List Width} {s t u : State} (f : Fetched [w] s t)
    (hl : s.lenCounts = true) (hfit : s.ctx.len + w.size < lengthLimit) (a : GuardReached ws t u) :
    GuardReached (w :: ws) s u := by
  have hlen : t.ctx.len = s.ctx.len + w.size := by rw [f.len, if_pos hl]; rfl
  have hrest : lengthLimit - s.ctx.len - w.size = lengthLimit - t.ctx.len := by omega
  have htotal : totalSize [w] + (lengthLimit - t.ctx.len) = lengthLimit - s.ctx.len := by
    simp only [totalSize]; omega
  have b := TenthReached.after f hl a
  rw [htotal, ← hrest] at b
  rwa [GuardReached, fetchesUpTo_cons_of_lt (by omega)]

section Tenth

variable {s : State} (hr : s.onReference) (hp : s.protectedMode = false) (hl : s.lenCounts = true)
include hr hp hl

/-- A one-byte fetch that does not fit reaches the guard. -/
theorem hFetch8_guardReached (h : s.ctx.len + 1 = lengthLimit) (ws : List Width) :
    ∃ t, hFetch8 s = .ended t ∧ GuardReached (.byte :: ws) s t := by
  refine ⟨_, hFetch8_tenth hp hl h, ?_⟩
  obtain ⟨m, hm⟩ := State.onReference_iff.mp hr
  have e : s.mem = m := by simp [State.mem, hm]
  rw [GuardReached, show lengthLimit - s.ctx.len = 1 by omega, fetchesUpTo_cons_of_le (by decide)]
  constructor <;>
    simp [catchFault, busReadByte, totalSize, Width.size, codeReads, bytesFrom, codeAddress, codeByte, hm, e]

/-- A two-byte fetch that does not fit reaches the guard with its low or with its high byte. -/
theorem hFetch16_guardReached (h : s.ctx.len + 1 = lengthLimit ∨ s.ctx.len + 2 = lengthLimit)
    (ws : List Width) : ∃ t, hFetch16 s = .ended t ∧ GuardReached (.word :: ws) s t := by
  obtain ⟨m, hm⟩ := State.onReference_iff.mp hr
  have e : s.mem = m := by simp [State.mem, hm]
  unfold GuardReached
  obtain h | h := h
  · refine ⟨_, hFetch16_tenth_low hp hl h, ?_⟩
    rw [show lengthLimit - s.ctx.len = 1 by omega, fetchesUpTo_cons_of_le (by decide)]
    constructor <;>
      simp [catchFault, busReadWord, totalSize, Width.size, codeReads, bytesFrom, codeAddress,
        Memory.read16, hm, e]
  · refine ⟨_, hFetch16_tenth_high hp hl h, ?_⟩
    rw [show lengthLimit - s.ctx.len = 2 by omega, fetchesUpTo_cons_of_le (by decide)]
    constructor <;>
      simp [catchFault, busReadWord, totalSize, Width.size, codeReads, bytesFrom, codeAddress,
        Memory.read16, hm, e]

end Tenth

/-- A plan whose bytes reach the tenth ends at the fetch that does (R115, R116). -/
theorem fetchPlan_guardReached {α : Type} : ∀ {p : Plan α} {s : State} {n : Nat} {v : α} {rest : List Byte},
    s.onReference → s.protectedMode = false → s.lenCounts = true → s.ctx.len < lengthLimit →
    p.onBytes (bytesFrom s.mem n (codeAddress s)) = some (v, rest) →
    lengthLimit ≤ s.ctx.len + totalSize (planWidths p (bytesFrom s.mem n (codeAddress s))) →
    ∃ t, fetchPlan p s = .ended t ∧ GuardReached (planWidths p (bytesFrom s.mem n (codeAddress s))) s t
  | .done w, s, n, v, rest, _, _, _, hlen, _, hreach => by
    simp only [planWidths, totalSize] at hreach; omega
  | .note c p, s, n, v, rest, hr, hp, hl, hlen, hd, hreach => by
    have f : Fetched [] s (s.takeNote c) := (Fetched.refl s).takeNote c
    have ha : codeAddress (s.takeNote c) = codeAddress s := f.codeAddress_eq.trans (BitVec.add_zero _)
    have hc := takeNote_len s c
    obtain ⟨t, e, a⟩ := fetchPlan_guardReached (p := p) (s := s.takeNote c) (n := n) (f.onReference hr)
      (f.protectedMode.trans hp) (f.lenCounts.trans hl) (by rw [hc]; exact hlen)
      (by rw [f.mem, ha]; exact hd) (by rw [f.mem, ha, hc]; exact hreach)
    rw [GuardReached, f.mem, ha, hc] at a
    have b := a.after f hl
    rw [totalSize, Nat.zero_add] at b
    exact ⟨t, e, b⟩
  | .byte next, s, 0, v, rest, _, _, _, _, hd, _ => by simp [Plan.onBytes, bytesFrom] at hd
  | .byte next, s, n + 1, v, rest, hr, hp, hl, hlen, hd, hreach => by
    simp only [Plan.onBytes, bytesFrom] at hd
    simp only [planWidths, bytesFrom, totalSize, Width.size] at hreach ⊢
    by_cases h1 : s.ctx.len + 1 = lengthLimit
    · obtain ⟨t, e, a⟩ := hFetch8_guardReached hr hp hl h1 _
      exact ⟨t, by rw [fetchPlan, e, Flow.bind_ended], a⟩
    · obtain ⟨t, e, f, -, -⟩ := hFetch8_fetched hr ⟨hp, fun _ => by omega⟩
      have ha : codeAddress t = codeAddress s + 1 := f.codeAddress_eq
      have hc : t.ctx.len = s.ctx.len + 1 := by rw [f.len, if_pos hl]; rfl
      obtain ⟨u, e', a⟩ := fetchPlan_guardReached (p := next (s.mem.read8 (codeAddress s))) (s := t) (n := n)
        (f.onReference hr) (f.protectedMode.trans hp) (f.lenCounts.trans hl) (by omega)
        (by rw [f.mem, ha]; exact hd) (by rw [f.mem, ha, hc]; omega)
      rw [f.mem, ha] at a
      exact ⟨u, by rw [fetchPlan, e, Flow.bind_go, e'], a.after f hl (by simp only [Width.size]; omega)⟩
  | .word next, s, 0, v, rest, _, _, _, _, hd, _ => by simp [Plan.onBytes, bytesFrom] at hd
  | .word next, s, 1, v, rest, _, _, _, _, hd, _ => by simp [Plan.onBytes, bytesFrom] at hd
  | .word next, s, n + 2, v, rest, hr, hp, hl, hlen, hd, hreach => by
    simp only [Plan.onBytes, bytesFrom] at hd
    simp only [planWidths, bytesFrom, totalSize, Width.size] at hreach ⊢
    by_cases h2 : s.ctx.len + 1 = lengthLimit ∨ s.ctx.len + 2 = lengthLimit
    · obtain ⟨t, e, a⟩ := hFetch16_guardReached hr hp hl h2 _
      exact ⟨t, by rw [fetchPlan, e, Flow.bind_ended], a⟩
    · obtain ⟨t, e, f, -, -⟩ := hFetch16_fetched hr ⟨hp, fun _ => by omega⟩
      have ha : codeAddress t = codeAddress s + 1 + 1 := by
        rw [f.codeAddress_eq, BitVec.add_assoc]; rfl
      have hc : t.ctx.len = s.ctx.len + 2 := by rw [f.len, if_pos hl]; rfl
      obtain ⟨u, e', a⟩ := fetchPlan_guardReached (p := next (s.mem.read16 (codeAddress s))) (s := t)
        (n := n) (f.onReference hr) (f.protectedMode.trans hp) (f.lenCounts.trans hl) (by omega)
        (by rw [f.mem, ha]; exact hd) (by rw [f.mem, ha, hc, Memory.read16]; omega)
      rw [f.mem, ha] at a
      exact ⟨u, by rw [fetchPlan, e, Flow.bind_go, e'], a.after f hl (by simp only [Width.size]; omega)⟩

/-- Settles O48: a fetch that reaches the tenth byte ends in `catchFault`, and a handler's plan ends at
its first such fetch. -/
theorem countedOperandByteRaisesGP : Obligations.CountedOperandByteRaisesGP := by
  unfold Obligations.CountedOperandByteRaisesGP
  refine ⟨fun s hp hl hlen => ?_, fun s hp hl hlen => ?_, fun h b s i rest hr hp hl hlen hd hreach => ?_⟩
  · exact ⟨_, hFetch8_tenth hp hl (by rw [hlen]; rfl), rfl, rfl, rfl, rfl, rfl, rfl⟩
  · obtain hlen | hlen := hlen
    · refine ⟨_, hFetch16_tenth_high hp hl (by rw [hlen]; rfl), rfl, rfl, ?_, rfl, rfl, rfl⟩
      rw [hlen]; rfl
    · refine ⟨_, hFetch16_tenth_low hp hl (by rw [hlen]; rfl), rfl, rfl, ?_, rfl, rfl, rfl⟩
      rw [hlen]; rfl
  · have hw := planWidths_operandPlan hd
    rw [← totalSize_operandFetches, ← hw] at hreach
    obtain ⟨t, e, a⟩ := fetchPlan_guardReached hr hp hl (Nat.lt_succ_of_le hlen) hd hreach
    rw [hw] at a
    exact ⟨t, e, a.faults, a.trace, a.bytes, a.ip, a.busLog, a.regs, a.segs, a.device, a.deferredIe,
      a.flags, a.cr0, a.tables, a.status, fun k sec s' hf he => opcodeStage_fetch_ended hf he e⟩

end Sys2Proof.Machine
end
